-- ==== Sys2Proof/Word.lean ====
section
/-! DEFINITION. The byte, the word of the key schedule and the 16-byte block (`00_scope.md` R8, `41_key_schedule.md` R90). -/

namespace Sys2Proof

/-- A byte, bits 7 down to 0 (R8). -/
abbrev Byte := BitVec 8

/-- A word is a byte string of length 4, never an integer (R8, R90). -/
abbrev Word := Vector Byte 4

/-- A 16-byte block in index order: a State, a round key, an IV, a counter (R6, R17). -/
abbrev Block := Vector Byte 16

end Sys2Proof
end

