-- ==== Sys2Proof/Machine/Transform.lean ====
section
/-! DEFINITION. The seven State transforms as functions of the 16-byte State (`42_state_transform.md`), and the XOR of
byte strings (`00_scope.md` R8). Byte (row r, column c) is at offset 4c+r (R100). -/

namespace Sys2Proof.Machine

/-- `X ^ Y` on blocks, byte by byte (R8). -/
def xorBlock (a b : Block) : Block := Vector.ofFn fun j => a[j] ^^^ b[j]

/-- `X ^ Y` on words, byte by byte (R8). -/
def xorWord (a b : Word) : Word := Vector.ofFn fun j => a[j] ^^^ b[j]

/-- SUBBYTES (R101). -/
def subBytes (s : Block) : Block := Vector.ofFn fun j => sbox s[j]

/-- INVSUBBYTES (R102). -/
def invSubBytes (s : Block) : Block := Vector.ofFn fun j => invSbox s[j]

/-- The offset SHIFTROWS takes byte `j` from: row `r = j mod 4`, column `c + r` (R103). -/
def shiftSource (j : Fin 16) : Fin 16 :=
  ⟨4 * ((j.val / 4 + j.val % 4) % 4) + j.val % 4, by omega⟩

/-- The offset INVSHIFTROWS takes byte `j` from: row `r = j mod 4`, column `c - r` modulo 4 (R104). -/
def invShiftSource (j : Fin 16) : Fin 16 :=
  ⟨4 * ((j.val / 4 + 4 - j.val % 4) % 4) + j.val % 4, by omega⟩

/-- SHIFTROWS: row r is rotated left by r positions (R103). -/
def shiftRows (s : Block) : Block := Vector.ofFn fun j => s[shiftSource j]

/-- INVSHIFTROWS: row r is rotated right by r positions (R104). -/
def invShiftRows (s : Block) : Block := Vector.ofFn fun j => s[invShiftSource j]

/-- One byte of a column product: the matrix row `(k0, k1, k2, k3)` times the column `(a0, a1, a2, a3)` (R105). -/
def mixByte (k0 k1 k2 k3 a0 a1 a2 a3 : Byte) : Byte :=
  gmul a0 k0 ^^^ gmul a1 k1 ^^^ gmul a2 k2 ^^^ gmul a3 k3

/-- The matrix whose first row is `(k0, k1, k2, k3)` and whose every next row is the one before rotated right by one
position, times column `c` of the State; byte `r` of the result (R105, R106). -/
def mixColumnByte (k0 k1 k2 k3 : Byte) (a0 a1 a2 a3 : Byte) (r : Nat) : Byte :=
  match r with
  | 0 => mixByte k0 k1 k2 k3 a0 a1 a2 a3
  | 1 => mixByte k3 k0 k1 k2 a0 a1 a2 a3
  | 2 => mixByte k2 k3 k0 k1 a0 a1 a2 a3
  | _ => mixByte k1 k2 k3 k0 a0 a1 a2 a3

/-- Every column replaced by its product with the circulant matrix of first row `(k0, k1, k2, k3)`. -/
def mixWith (k0 k1 k2 k3 : Byte) (s : Block) : Block := Vector.ofFn fun j =>
  have hj : 4 * (j.val / 4) + 3 < 16 := by omega
  mixColumnByte k0 k1 k2 k3 s[4 * (j.val / 4)] s[4 * (j.val / 4) + 1] s[4 * (j.val / 4) + 2] s[4 * (j.val / 4) + 3]
    (j.val % 4)

/-- MIXCOLUMNS: the matrix [[2,3,1,1],[1,2,3,1],[1,1,2,3],[3,1,1,2]] (R105). -/
def mixColumns (s : Block) : Block := mixWith 2 3 1 1 s

/-- INVMIXCOLUMNS: the matrix [[14,11,13,9],[9,14,11,13],[13,9,14,11],[11,13,9,14]] (R106). -/
def invMixColumns (s : Block) : Block := mixWith 14 11 13 9 s

end Sys2Proof.Machine
end

