-- ==== Sys2Proof/Syntax.lean ====
section
/-! DEFINITION. The seven commands and the seven micro-operations: one constructor per row of `opcode_table.json`
(`30_encoding.md` R61, R67), and the two closed enumerations a context is built from. -/

namespace Sys2Proof

/-- The three Variants (`00_scope.md` R6). -/
inductive Variant where
  | aes128 | aes192 | aes256
  deriving DecidableEq, Repr, Inhabited

/-- The three Modes (`30_encoding.md` R63). -/
inductive Mode where
  | ecb | cbc | ctr
  deriving DecidableEq, Repr, Inhabited

/-- An instruction of the engine. The host issues the first seven by writing `CMD`; the round sequencer issues the
last seven. NEW carries its two fields as the unsigned 2-bit codes they are (`30_encoding.md` R64); ADDROUNDKEY
takes its round number from `RND` (`42_state_transform.md` R107). -/
inductive Instr where
  | new (variant mode : BitVec 2)
  | setIv
  | ecbEncrypt
  | ecbDecrypt
  | cbcEncrypt
  | cbcDecrypt
  | ctrXcrypt
  | subBytes
  | shiftRows
  | mixColumns
  | addRoundKey
  | invSubBytes
  | invShiftRows
  | invMixColumns
  deriving DecidableEq, Repr

end Sys2Proof
end

