-- ==== Sys2Proof/Machine/KeySchedule.lean ====
section
/-! DEFINITION. The parameters of a Variant (`00_scope.md` R6) and the key schedule (`41_key_schedule.md`). -/

namespace Sys2Proof.Machine

/-- Nk, the key length in words (R6). -/
def nkOf : Variant → Nat
  | .aes128 => 4
  | .aes192 => 6
  | .aes256 => 8

/-- Nr, the number of rounds (R6). -/
def nrOf : Variant → Nat
  | .aes128 => 10
  | .aes192 => 12
  | .aes256 => 14

/-- The length of a schedule in bytes, 16·(Nr+1) (R6, R12). -/
def scheduleLen (v : Variant) : Nat := 16 * (nrOf v + 1)

/-- `RotWord`: the byte that was first becomes last (R91). -/
def rotWord (w : Word) : Word := #v[w[1], w[2], w[3], w[0]]

/-- `SubWord`: `SBOX` on each byte (R92). -/
def subWord (w : Word) : Word := Vector.ofFn fun j => sbox w[j]

/-- XOR a byte into the first byte of a word. -/
def xorFirst (w : Word) (b : Byte) : Word := #v[w[0] ^^^ b, w[1], w[2], w[3]]

/-- What the expansion does to the previous word at index `i`: the three exclusive tests of R93, in their order. -/
def transformPrev (nk i : Nat) (prev : Word) : Word :=
  if i % nk = 0 then xorFirst (subWord (rotWord prev)) (rcon (i / nk))
  else if nk = 8 ∧ i % nk = 4 then subWord prev
  else prev

/-- Word `i` of a byte string (R90). -/
def wordOf (bytes : List Byte) (i : Nat) : Word := Vector.ofFn fun k => bytes.getD (4 * i + k.val) 0

/-- Word `i` of the schedule from the words before it, newest first: `word[i−Nk] ^ transformed word[i−1]` (R93). -/
def nextWord (nk i : Nat) (before : List Word) : Word :=
  xorWord (before.getD (nk - 1) (Vector.replicate 4 0)) (transformPrev nk i (before.headD (Vector.replicate 4 0)))

/-- The loop of `KeyExpand` (R93): `n` more words from index `i` on, the words so far newest first. -/
def expandFrom (nk : Nat) : (n i : Nat) → (before : List Word) → List Word
  | 0, _, before => before
  | n + 1, i, before => expandFrom nk n (i + 1) (nextWord nk i before :: before)

/-- The words of the key, newest (last) first: words `0 .. Nk-1` of the schedule (R93). -/
def keyWords (key : List Byte) (nk : Nat) : List Word := ((List.range nk).map (wordOf key)).reverse

/-- All `4·(Nr+1)` words of the schedule in order (R93). -/
def keyExpandWords (key : List Byte) (v : Variant) : List Word :=
  (expandFrom (nkOf v) (4 * (nrOf v + 1) - nkOf v) (nkOf v) (keyWords key (nkOf v))).reverse

/-- `KeyExpand(key, v)`: the schedule as a byte string of length 16·(Nr+1) (R93). -/
@[irreducible] def keyExpand (key : List Byte) (v : Variant) : List Byte :=
  (keyExpandWords key v).flatMap fun w => [w[0], w[1], w[2], w[3]]

end Sys2Proof.Machine
end

