-- ==== Sys2Proof/Machine/Cipher.lean ====
section
/-! DEFINITION. The block cipher (`43_block_cipher.md`): `EncryptBlock(B, RKS, Nr)` and `DecryptBlock(B, RKS, Nr)`, the
final State as a function of the block, the schedule and Nr (R110, R111, R114). -/

namespace Sys2Proof.Machine

/-- Round key `r`: bytes `16r .. 16r+15` of the schedule storage (`10_state.md` R12). -/
def roundKey (rks : Vector Byte 240) (r : Nat) : Block := Vector.ofFn fun j => rks[16 * r + j.val]?.getD 0

/-- ADDROUNDKEY(round) (R107). -/
def addRoundKey (rks : Vector Byte 240) (round : Nat) (s : Block) : Block := xorBlock s (roundKey rks round)

/-- `n` rounds of the encryption loop, from round `r` on (R110). -/
def encryptRounds (rks : Vector Byte 240) : (n r : Nat) → Block → Block
  | 0, _, s => s
  | n + 1, r, s => encryptRounds rks n (r + 1) (addRoundKey rks r (mixColumns (shiftRows (subBytes s))))

/-- `EncryptBlock` (R110): AddRoundKey(0), rounds 1 to Nr-1, then the final round without MIXCOLUMNS. -/
@[irreducible] def encryptBlock (rks : Vector Byte 240) (nr : Nat) (b : Block) : Block :=
  addRoundKey rks nr (shiftRows (subBytes (encryptRounds rks (nr - 1) 1 (addRoundKey rks 0 b))))

/-- Rounds `n` down to 1 of the decryption loop (R111). -/
def decryptRounds (rks : Vector Byte 240) : (n : Nat) → Block → Block
  | 0, s => s
  | n + 1, s => decryptRounds rks n (invMixColumns (addRoundKey rks (n + 1) (invSubBytes (invShiftRows s))))

/-- `DecryptBlock` (R111): AddRoundKey(Nr), rounds Nr-1 down to 1 with AddRoundKey before InvMixColumns, final step. -/
@[irreducible] def decryptBlock (rks : Vector Byte 240) (nr : Nat) (b : Block) : Block :=
  addRoundKey rks 0 (invSubBytes (invShiftRows (decryptRounds rks (nr - 1) (addRoundKey rks nr b))))

end Sys2Proof.Machine
end

