-- ==== Sys2Proof/Config.lean ====
section
/-! DEFINITION. What an implementation fixes (`00_scope.md` R7) and the free values: the values the spec says exist
without saying which they are (`93_implementation_defined.md` U1 to U13). A free value is an opaque constant: it has
no body, so no proof can know it and a theorem about it holds whatever it is. -/

namespace Sys2Proof

/-- A range of plain read/write memory: the `size` addresses from `base` on (`20_memory.md` R48). -/
structure Region where
  base : Nat
  size : Nat
  deriving DecidableEq, Repr

/-- The open parameters the rules depend on (R7): the address width `AW`, and the memory regions that make up the
predicate `MEM_OK`. They are an argument of the model (`92_eei_decisions.md`, open parameters); State carries them,
no step changes them, and a statement about every state holds for every choice of them. DESIGN CHOICE, safe: log 4. -/
structure Platform where
  aw : Nat
  plain : List Region
  deriving DecidableEq, Repr

/-- The defaults of R7 and `92_eei_decisions.md`: `AW = 32`, and `MEM_OK` true on all of `[0, 2^AW)`. -/
def Config.defaultPlatform : Platform := { aw := 32, plain := [{ base := 0, size := 2 ^ 32 }] }

/-- What an address that the memory does not list reads as. DESIGN CHOICE, unsafe: log 3. -/
def Config.unlistedByte : Byte := 0

/-- A byte the spec leaves open, for the draw and place that ask for it (U2 to U5, U8). Logs 8, 9, 10, 12. -/
opaque Config.freeByte (draw place : Nat) : Byte

/-- A small integer the spec leaves open (U5); whoever uses it brings it into the register's range. Logs 8, 10. -/
opaque Config.freeNat (draw place : Nat) : Nat

/-- The Variant a reset leaves in `CTX_CFG`, which the spec leaves open (U13). Log 10. -/
opaque Config.freeVariant (draw : Nat) : Variant

/-- The Mode a reset leaves in `CTX_CFG`, which the spec leaves open (U13). Log 10. -/
opaque Config.freeMode (draw : Nat) : Mode

end Sys2Proof
end

