-- ==== Sys2Proof/Machine/State.lean ====
section
/-! DEFINITION. The engine's state as plain data (`10_state.md` R10), the host's moves, the reasons a step can stop, and
the state after reset (R24). -/

namespace Sys2Proof.Machine

/-- The outcome in `STATUS.ERR`: the six codes that are ever produced (`60_exceptions.md` R151). -/
inductive Err where
  | ok | keyLen | ivLen | bufLen | noContext | illegalCmd
  deriving DecidableEq, Repr

/-- A register, or one byte of a byte-string register, as the host addresses it (`10_state.md` R25). -/
inductive HostReg where
  | cmd | status | ctxCfg | keyLen | ivLen | bufAddr | bufLen
  | keyIn (j : Fin 32)
  | ivIn (j : Fin 16)
  | chain (j : Fin 16)
  | rks (j : Fin 240)
  deriving DecidableEq, Repr

/-- What the host and the platform can do (`70_reset_and_hazards.md` R187, R189). A write of `CMD` starts a command. -/
inductive HostAction where
  /-- Write a value to a register. -/
  | write (r : HostReg) (v : Nat)
  /-- Read a register. -/
  | read (r : HostReg)
  /-- Store a byte in data memory. -/
  | memWrite (a : Nat) (b : Byte)
  /-- Read a byte of data memory. -/
  | memRead (a : Nat)
  /-- The platform's reset (R180). -/
  | reset
  deriving DecidableEq, Repr

/-- Which operand registers, and which bytes of `KEY_IN` and `IV_IN`, the host has written since reset
(`93_implementation_defined.md` U1). The model's own record: no command reads it. Log 2. -/
structure Written where
  keyLen : Bool
  ivLen : Bool
  bufAddr : Bool
  bufLen : Bool
  keyIn : Vector Bool 32
  ivIn : Vector Bool 16
  deriving DecidableEq, Repr

/-- The state of the engine, its data memory and its host. -/
structure State where
  /-- `CTX_CFG.VALID` (R11). -/
  valid : Bool
  /-- `CTX_CFG.VARIANT` (R11). -/
  variant : Variant
  /-- `CTX_CFG.MODE` (R11). -/
  mode : Mode
  /-- `RKS`, the 240 bytes of storage (R12). -/
  rks : Vector Byte 240
  /-- `CHAIN` (R13). -/
  chain : Block
  /-- `STATUS.ERR` (R14). -/
  err : Err
  /-- `STATUS.BUSY` (R14): false in every state the untimed model reaches. -/
  busy : Bool
  /-- `KEY_IN` (R16). -/
  keyIn : Vector Byte 32
  /-- `KEY_LEN` (R16). -/
  keyLen : BitVec 8
  /-- `IV_IN` (R16). -/
  ivIn : Block
  /-- `IV_LEN` (R16). -/
  ivLen : BitVec 8
  /-- `BUF_ADDR` (R16), an unsigned number below `2^AW`. -/
  bufAddr : Nat
  /-- `BUF_LEN` (R16), an unsigned number below `2^AW`. -/
  bufLen : Nat
  /-- Scratch register `STATE` (R17); all scratch is unspecified between commands. -/
  st : Block
  /-- Scratch register `KS`, the keystream block (R17). -/
  ks : Block
  /-- Scratch register `NEXTIV`, the ciphertext block CBC_DECRYPT keeps (R17). -/
  nextIv : Block
  /-- Scratch register `CH`, the running chain block of CBC_ENCRYPT (R17). -/
  ch : Block
  /-- Sequencer counter `RND`, 0..14 (R17, R22). -/
  rnd : Nat
  /-- Sequencer counter `OFF`, 0..BUF_LEN (R17, R22). -/
  off : Nat
  /-- Sequencer counter `KI`, 0..59 (R17, R22). -/
  ki : Nat
  /-- The micro-operation code the round sequencer is about to issue, `none` when the sequencer is idle (R22, R67). -/
  uop : Option (BitVec 4)
  /-- Data memory `MEM` (R10): the bytes that differ from what an unlisted address reads as, by rising address. -/
  mem : List Host.Cell
  /-- The open parameters `AW` and `MEM_OK` (`00_scope.md` R7); no step changes them. The model's own, log 4. -/
  platform : Platform
  /-- The actions the host has still to perform, first one first (R187). The model's own, log 5. -/
  host : List HostAction
  /-- What the last host read returned (R189), `none` before the first read. The model's own, log 5. -/
  hostData : Option Nat
  /-- Which operands have been written since reset (U1). The model's own, log 2. -/
  written : Written
  /-- How many free values have been drawn. The model's own, log 9. -/
  draws : Nat
  deriving DecidableEq, Repr

/-- Reasons a step stops with a fault. -/
inductive Fault where
  /-- Raised by a host access to data memory at an address outside `0 .. 2^AW - 1`, which does not exist
  (`20_memory.md` R40). Safe: nothing is claimed of such an access. -/
  | addressOutsideMemory
  deriving DecidableEq, Repr

/-- Reasons a step is refused: the spec gives the case no behaviour. -/
inductive Refusal where
  /-- An instruction that has no meaning yet; raised by an arm of `exec` only. Safe. -/
  | notModelled (mnemonic : String)
  /-- Raised by a data command that passed its checks and whose non-empty buffer wraps the address space or leaves
  plain memory (`20_memory.md` R47, U6 "refuse: no step"). Safe: log 13. -/
  | bufferNotMemory
  /-- Raised by a host move while a command is in progress, other than polling `STATUS`, a reset, and memory accesses
  outside the buffer (`70_reset_and_hazards.md` R182, R184; U7, U9 "refuse"). Safe: log 11. -/
  | hostDuringCommand
  /-- Raised by a host access to an address that is no plain memory: a device the spec says nothing about
  (`20_memory.md` R48). Safe: log 14. -/
  | notPlainMemory
  /-- Raised when the sequencer's port holds one of the codes that are not used (`30_encoding.md` R67, U11).
  Safe: log 20. -/
  | unusedMicroOp
  deriving DecidableEq, Repr

/-- What a step ends in. -/
abbrev Outcome := Host.Outcome State Fault Refusal

/-- Nothing written since reset (U1). -/
def Written.nothing : Written where
  keyLen := false
  ivLen := false
  bufAddr := false
  bufLen := false
  keyIn := Vector.replicate 32 false
  ivIn := Vector.replicate 16 false

/-- The state after reset (R24, R180): no context, no error, not busy, memory with nothing listed, the engine idle. The
registers R24 calls unspecified hold named values. DESIGN CHOICE, unsafe: log 1. -/
def State.reset : State where
  valid := false
  variant := .aes128
  mode := .ecb
  rks := Vector.replicate 240 0
  chain := Vector.replicate 16 0
  err := .ok
  busy := false
  keyIn := Vector.replicate 32 0
  keyLen := 0
  ivIn := Vector.replicate 16 0
  ivLen := 0
  bufAddr := 0
  bufLen := 0
  st := Vector.replicate 16 0
  ks := Vector.replicate 16 0
  nextIv := Vector.replicate 16 0
  ch := Vector.replicate 16 0
  rnd := 0
  off := 0
  ki := 0
  uop := none
  mem := []
  platform := Config.defaultPlatform
  host := []
  hostData := none
  written := Written.nothing
  draws := 0

end Sys2Proof.Machine
end

