-- ==== Sys2Proof/Machine/Ops.lean ====
section
/-! DEFINITION. The named operations over memory and registers: byte access and block access to data memory, `raise`
and successful completion (`60_exceptions.md` R158, `44_mode_driver.md` R120), and the free values. -/

namespace Sys2Proof.Machine

/-! Data memory (`20_memory.md` R40 to R44). Every access is a sequence of single bytes. -/

/-- Read the byte at an address (R44). -/
def readByte : List Host.Cell → Nat → Byte
  | [], _ => Config.unlistedByte
  | c :: m, a => if c.1 = a then c.2 else readByte m a

/-- Drop an address from the list. -/
def dropAddr (m : List Host.Cell) (a : Nat) : List Host.Cell := m.filter fun c => c.1 != a

/-- List an address before the first greater one. -/
def listAddr (a : Nat) (b : Byte) : List Host.Cell → List Host.Cell
  | [] => [(a, b)]
  | c :: m => if a < c.1 then (a, b) :: c :: m else c :: listAddr a b m

/-- Store a byte at an address (R44). A byte equal to what an unlisted address reads as is not listed. -/
def writeByte (m : List Host.Cell) (a : Nat) (b : Byte) : List Host.Cell :=
  if b = Config.unlistedByte then dropAddr m a else listAddr a b (dropAddr m a)

/-- The canonical form of memory: addresses strictly rising, no entry an unlisted address would read as. -/
abbrev MemWf (m : List Host.Cell) : Prop :=
  m.Pairwise (fun c d => c.1 < d.1) ∧ ∀ c ∈ m, c.2 ≠ Config.unlistedByte

/-- `MemRead(addr, n)`: the bytes at `addr, addr+1, ..., addr+n-1` (R8, R44). -/
def memRead (m : List Host.Cell) (addr : Nat) : (n : Nat) → List Byte
  | 0 => []
  | n + 1 => readByte m addr :: memRead m (addr + 1) n

/-- `MemWrite(addr, n, v)` for the `n` bytes of `v`, at increasing addresses (R8, R44). -/
def memWrite (m : List Host.Cell) (addr : Nat) : List Byte → List Host.Cell
  | [] => m
  | b :: bs => memWrite (writeByte m addr b) (addr + 1) bs

/-- The 16-byte block at an address, in index order (`20_memory.md` R42 (a)). -/
@[irreducible] def readBlock (m : List Host.Cell) (addr : Nat) : Block := Vector.ofFn fun j => readByte m (addr + j.val)

/-- Store a block at an address, byte `j` at `addr + j` (R121). -/
@[irreducible] def writeBlock (m : List Host.Cell) (addr : Nat) (b : Block) : List Host.Cell := memWrite m addr b.toList

/-- Does an address belong to plain memory (`MEM_OK` on one byte, `00_scope.md` R7)? -/
def plainByte (p : Platform) (a : Nat) : Bool := p.plain.any fun r => r.base ≤ a && a < r.base + r.size

/-- `MEM_OK(a, n)`: every one of the `n` bytes at address `a` is plain memory (R7). -/
def memOk (p : Platform) (a : Nat) : (n : Nat) → Bool
  | 0 => true
  | n + 1 => plainByte p a && memOk p (a + 1) n

/-- Is the buffer legal: empty, or not wrapping the address space and wholly in plain memory (`20_memory.md` R47; the
address of an empty buffer may be anything, `44_mode_driver.md` R128)? -/
def bufferOk (s : State) : Bool :=
  s.bufLen == 0 || (s.bufAddr + s.bufLen ≤ 2 ^ s.platform.aw && memOk s.platform s.bufAddr s.bufLen)

/-- Does an address lie in the buffer `MEM[BUF_ADDR .. BUF_ADDR + BUF_LEN)` (R41)? -/
def inBuffer (s : State) (a : Nat) : Bool := s.bufAddr ≤ a && a < s.bufAddr + s.bufLen

/-! The outcome of a command. -/

/-- `raise E` (R158): `STATUS.ERR` takes the code and the command ends; nothing else changes. The end of the command
is also where `STATUS.BUSY` is 0 again (`10_state.md` R14). -/
def raise (e : Err) (s : State) : Outcome := .next { s with err := e, busy := false }

/-- The last state update of a successful command: `STATUS.ERR <- 0`, `BUSY` 0 (R120 (6), R14). -/
def succeed (s : State) : State := { s with err := .ok, busy := false }

/-! Free values. Each draw has its own number, and each byte of a draw its own place. -/

/-- A block of free bytes: places `place .. place + 15` of a draw. -/
def freeBlock (draw place : Nat) : Block := Vector.ofFn fun j => Config.freeByte draw (place + j.val)

/-- After a data command the scratch it used is unspecified (`10_state.md` R17, U5): `STATE`, `RND` and `OFF` take free
values in the registers' ranges. Log 8. -/
def releaseScratch (s : State) : State :=
  { s with
    st := freeBlock s.draws 0
    rnd := Config.freeNat s.draws 0 % 15
    off := Config.freeNat s.draws 1 % 2 ^ s.platform.aw
    draws := s.draws + 1 }

/-- `CH` is unspecified after CBC_ENCRYPT (R17, U5). -/
def releaseCh (s : State) : State :=
  { s with ch := freeBlock s.draws 0, draws := s.draws + 1 }

/-- `NEXTIV` is unspecified after CBC_DECRYPT (R17, U5). -/
def releaseNextIv (s : State) : State :=
  { s with nextIv := freeBlock s.draws 0, draws := s.draws + 1 }

/-- `KS` is unspecified after CTR_XCRYPT (R17, U5). -/
def releaseKs (s : State) : State :=
  { s with ks := freeBlock s.draws 0, draws := s.draws + 1 }

/-- `KI` is unspecified after NEW (R17, U5). -/
def releaseKi (s : State) : State :=
  { s with ki := Config.freeNat s.draws 0 % 60, draws := s.draws + 1 }

end Sys2Proof.Machine
end

