-- ==== Sys2Proof/Machine/Operands.lean ====
section
/-! DEFINITION. Operand assembly (`30_encoding.md` R62 to R64) and the host's view of the registers
(`10_state.md` R25, `45_context.md` R142). -/

namespace Sys2Proof.Machine

/-- The Variant a 2-bit code stands for; 3 is reserved (R62). -/
def variantOfCode (c : BitVec 2) : Option Variant :=
  if c = 0 then some .aes128 else if c = 1 then some .aes192 else if c = 2 then some .aes256 else none

/-- The code of a Variant (R62). -/
def variantCode : Variant → BitVec 2
  | .aes128 => 0
  | .aes192 => 1
  | .aes256 => 2

/-- The Mode a 2-bit code stands for; 3 is reserved (R63). -/
def modeOfCode (c : BitVec 2) : Option Mode :=
  if c = 0 then some .ecb else if c = 1 then some .cbc else if c = 2 then some .ctr else none

/-- The code of a Mode (R63). -/
def modeCode : Mode → BitVec 2
  | .ecb => 0
  | .cbc => 1
  | .ctr => 2

/-- The `key` operand: the first `KEY_LEN` bytes of `KEY_IN` (R64). -/
def keyOperand (s : State) : List Byte := s.keyIn.toList.take s.keyLen.toNat

/-- The number of a register (R25). -/
def regNumber : HostReg → Nat
  | .cmd => 0
  | .status => 1
  | .ctxCfg => 2
  | .keyLen => 3
  | .ivLen => 4
  | .bufAddr => 5
  | .bufLen => 6
  | .keyIn _ => 7
  | .ivIn _ => 8
  | .chain _ => 9
  | .rks _ => 10

/-! The record of what the host has written since reset (`93_implementation_defined.md` U1, log 2). -/

/-- `KEY_LEN` has been written. -/
def markKeyLen (w : Written) : Written := { w with keyLen := true }

/-- `IV_LEN` has been written. -/
def markIvLen (w : Written) : Written := { w with ivLen := true }

/-- `BUF_ADDR` has been written. -/
def markBufAddr (w : Written) : Written := { w with bufAddr := true }

/-- `BUF_LEN` has been written. -/
def markBufLen (w : Written) : Written := { w with bufLen := true }

/-- Byte `j` of `KEY_IN` has been written. -/
def markKeyIn (w : Written) (j : Fin 32) : Written := { w with keyIn := w.keyIn.set j true }

/-- Byte `j` of `IV_IN` has been written. -/
def markIvIn (w : Written) (j : Fin 16) : Written := { w with ivIn := w.ivIn.set j true }

/-- A host write of an operand register stores the value; a write of a read-only register is ignored (R25, R142 (d),
(e)). The stored value is the written one within the register's width (log 17). Writing `CMD` is no register write:
the fetch takes it as a command (R15). -/
def writeReg (r : HostReg) (v : Nat) (s : State) : State :=
  match r with
  | .cmd => s
  | .status => s
  | .ctxCfg => s
  | .keyLen => { s with keyLen := BitVec.ofNat 8 v, written := markKeyLen s.written }
  | .ivLen => { s with ivLen := BitVec.ofNat 8 v, written := markIvLen s.written }
  | .bufAddr => { s with bufAddr := v % 2 ^ s.platform.aw, written := markBufAddr s.written }
  | .bufLen => { s with bufLen := v % 2 ^ s.platform.aw, written := markBufLen s.written }
  | .keyIn j => { s with keyIn := s.keyIn.set j (BitVec.ofNat 8 v), written := markKeyIn s.written j }
  | .ivIn j => { s with ivIn := s.ivIn.set j (BitVec.ofNat 8 v), written := markIvIn s.written j }
  | .chain _ => s
  | .rks _ => s

end Sys2Proof.Machine
end

