-- ==== Sys2Proof/Machine/Flags.lean ====
section
/-! DEFINITION. The engine has no arithmetic flags (`10_state.md` R23). Its status is `STATUS` and `CTX_CFG`: their codes
and layouts (R11, R14, `60_exceptions.md` R151), and what a host read of each register returns (R25, R142). -/

namespace Sys2Proof.Machine

/-- The code of an error (R151). -/
def errCode : Err → BitVec 3
  | .ok => 0
  | .keyLen => 1
  | .ivLen => 2
  | .bufLen => 3
  | .noContext => 4
  | .illegalCmd => 5

/-- `STATUS` as one register: bit 7 `BUSY`, bits 6:3 zero, bits 2:0 `ERR` (R14). -/
def statusByte (s : State) : Byte := BitVec.ofBool s.busy ++ 0#4 ++ errCode s.err

/-- `CTX_CFG` as one register: bits 7:5 zero, bits 4:3 `MODE`, bits 2:1 `VARIANT`, bit 0 `VALID` (R11). -/
def ctxCfgByte (s : State) : Byte :=
  0#3 ++ modeCode s.mode ++ variantCode s.variant ++ BitVec.ofBool s.valid

/-- What a host read of a register returns where the spec gives it a value, `none` where the value is unspecified: `CMD`
always (U4), `CHAIN` and `RKS` without a context (U2), `RKS` beyond the schedule (U3), and `CTX_CFG` without a context,
whose `VARIANT` and `MODE` are then open (U13). -/
def readValue (r : HostReg) (s : State) : Option Nat :=
  match r with
  | .cmd => none
  | .status => some (statusByte s).toNat
  | .ctxCfg => if s.valid then some (ctxCfgByte s).toNat else none
  | .keyLen => some s.keyLen.toNat
  | .ivLen => some s.ivLen.toNat
  | .bufAddr => some s.bufAddr
  | .bufLen => some s.bufLen
  | .keyIn j => some (s.keyIn[j]).toNat
  | .ivIn j => some (s.ivIn[j]).toNat
  | .chain j => if s.valid then some (s.chain[j]).toNat else none
  | .rks j => if s.valid ∧ j.val < scheduleLen s.variant then some (s.rks[j]).toNat else none

/-- The free value a host read returns where the spec leaves it open: any byte; for `CTX_CFG` without a context any
`VARIANT` and `MODE` bits, with `VALID` 0 and bits 7:5 zero (U2, U3, U4, U12, U13). Log 9. -/
def openValue (r : HostReg) (s : State) : Byte :=
  match r with
  | .ctxCfg => Config.freeByte s.draws 0 &&& 0x1e
  | .cmd | .status | .keyLen | .ivLen | .bufAddr | .bufLen => Config.freeByte s.draws 0
  | .keyIn _ | .ivIn _ | .chain _ | .rks _ => Config.freeByte s.draws 0

/-- A host read of a register (R142): the value goes to the host; the engine does not change. -/
def readReg (r : HostReg) (s : State) : State :=
  match readValue r s with
  | some v => { s with hostData := some v }
  | none => { s with hostData := some (openValue r s).toNat, draws := s.draws + 1 }

end Sys2Proof.Machine
end

