-- ==== Sys2Proof/Machine/Context.lean ====
section
/-! DEFINITION. The context commands NEW and SET_IV (`45_context.md` R140, R141). -/

namespace Sys2Proof.Machine

/-- The schedule storage after a NEW: `KeyExpand` in bytes `0 .. 16·(Nr+1)-1`; what the storage holds beyond the
schedule is open (`10_state.md` R12, U3). Log 18. -/
def scheduleStorage (key : List Byte) (v : Variant) (draw : Nat) : Vector Byte 240 :=
  let schedule := keyExpand key v
  Vector.ofFn fun j => if j.val < scheduleLen v then schedule.getD j.val 0 else Config.freeByte draw (16 + j.val)

/-- The writes of a successful NEW (R140): the whole context, and the report. -/
def buildContext (v : Variant) (m : Mode) (s : State) : State :=
  succeed (releaseKi
    { s with
      rks := scheduleStorage (keyOperand s) v s.draws
      chain := s.ivIn
      variant := v
      mode := m
      valid := true })

/-- NEW (R140): reserved codes, then the key length the command's own Variant needs, then the IV length. -/
def execNew (variant mode : BitVec 2) (s : State) : Outcome :=
  match variantOfCode variant, modeOfCode mode with
  | some v, some m =>
    if s.keyLen.toNat ≠ 4 * nkOf v then raise .keyLen s
    else if s.ivLen.toNat ≠ 16 then raise .ivLen s
    else .next (buildContext v m s)
  | _, _ => raise .illegalCmd s

/-- SET_IV (R141): a context must exist, then the IV length; `CHAIN` takes `IV_IN`. -/
def execSetIv (s : State) : Outcome :=
  if s.valid = false then raise .noContext s
  else if s.ivLen.toNat ≠ 16 then raise .ivLen s
  else .next (succeed { s with chain := s.ivIn })

end Sys2Proof.Machine
end

