-- ==== Sys2Proof/Machine/MicroOps.lean ====
section
/-! DEFINITION. The seven micro-operations as the round sequencer issues them on the scratch register `STATE`
(`42_state_transform.md` R101 to R108): each reads and writes `STATE`, touches nothing else and cannot fail. -/

namespace Sys2Proof.Machine

/-- Replace `STATE` by a function of itself (R108). -/
def onState (f : Block → Block) (s : State) : State := { s with st := f s.st }

/-- SUBBYTES (R101). -/
def execSubBytes (s : State) : Outcome := .next (onState subBytes s)

/-- SHIFTROWS (R103). -/
def execShiftRows (s : State) : Outcome := .next (onState shiftRows s)

/-- MIXCOLUMNS (R105). -/
def execMixColumns (s : State) : Outcome := .next (onState mixColumns s)

/-- INVSUBBYTES (R102). -/
def execInvSubBytes (s : State) : Outcome := .next (onState invSubBytes s)

/-- INVSHIFTROWS (R104). -/
def execInvShiftRows (s : State) : Outcome := .next (onState invShiftRows s)

/-- INVMIXCOLUMNS (R106). -/
def execInvMixColumns (s : State) : Outcome := .next (onState invMixColumns s)

/-- ADDROUNDKEY with the round number in `RND` (R107). The sequencer issues rounds `0 .. Nr` only; for a greater one
the 16 bytes read are beyond the schedule, where every read is a free value (`10_state.md` R12, U3). Log 15. -/
def execAddRoundKey (s : State) : Outcome :=
  if s.rnd ≤ nrOf s.variant then .next (onState (addRoundKey s.rks s.rnd) s)
  else .next { onState (xorBlock (freeBlock s.draws 0)) s with draws := s.draws + 1 }

end Sys2Proof.Machine
end

