-- ==== Sys2Proof/Machine/ModeDriver.lean ====
section
/-! DEFINITION. The mode driver: the five data commands over the buffer (`44_mode_driver.md`). Each body is the rule's
pseudocode on the scratch registers `STATE`, `KS`, `NEXTIV`, `CH` and `OFF`. -/

namespace Sys2Proof.Machine

/-- Carry of the counter from byte `n-1` down to byte 0, leaving early when a byte does not wrap (R126). -/
def incFrom : (n : Nat) → Block → Block
  | 0, ctr => ctr
  | n + 1, ctr =>
    let b : Byte := ctr[n]?.getD 0 + 1
    let next := ctr.setIfInBounds n b
    if b ≠ 0 then next else incFrom n next

/-- `CtrInc(C)`: the 128-bit big-endian counter plus one, wrapping (R126). -/
@[irreducible] def ctrInc (ctr : Block) : Block := incFrom 16 ctr

/-- `LoadBlock(OFF)` (R121). -/
def loadBlock (s : State) : State := { s with st := readBlock s.mem (s.bufAddr + s.off) }

/-- `StoreBlock(OFF)` (R121). -/
def storeBlock (s : State) : State := { s with mem := writeBlock s.mem (s.bufAddr + s.off) s.st }

/-- `EncryptBlock()` on the scratch `STATE`; the round counter ends at Nr (R110). -/
def encryptState (s : State) : State :=
  { s with
    st := encryptBlock s.rks (nrOf s.variant) s.st
    rnd := nrOf s.variant }

/-- `DecryptBlock()` on the scratch `STATE`; the round counter ends at 0 (R111). -/
def decryptState (s : State) : State :=
  { s with
    st := decryptBlock s.rks (nrOf s.variant) s.st
    rnd := 0 }

/-- The block loop: the body, then the next offset, `n` times (R112). -/
def blockLoop (body : State → State) : (n : Nat) → State → State
  | 0, s => s
  | n + 1, s => blockLoop body n (body s)

/-- How many blocks or chunks the loop `while OFF < BUF_LEN` takes: `ceil(BUF_LEN / 16)` (R127; BUF_LEN / 16 when 16
divides it). -/
def chunkCount (len : Nat) : Nat := (len + 15) / 16

/-- Run a body over the whole buffer, from `OFF = 0` (R122 to R127). -/
def overBuffer (body : State → State) (s : State) : State :=
  blockLoop body (chunkCount s.bufLen) { s with off := 0 }

/-- Move `OFF` on. -/
def advance (n : Nat) (s : State) : State := { s with off := s.off + n }

/-- One block of ECB_ENCRYPT (R122). -/
def ecbEncryptBody (s : State) : State := advance 16 (storeBlock (encryptState (loadBlock s)))

/-- One block of ECB_DECRYPT (R123). -/
def ecbDecryptBody (s : State) : State := advance 16 (storeBlock (decryptState (loadBlock s)))

/-- One block of CBC_ENCRYPT: XOR with `CH`, encrypt, store, and `CH` is the ciphertext block (R124). -/
def cbcEncryptBody (s : State) : State :=
  let loaded := loadBlock s
  let mixed := { loaded with st := xorBlock loaded.st loaded.ch }
  let stored := storeBlock (encryptState mixed)
  advance 16 { stored with ch := stored.st }

/-- One block of CBC_DECRYPT: keep the ciphertext in `NEXTIV`, decrypt, XOR with `CHAIN`, store, and `CHAIN` is the
ciphertext block (R125). -/
def cbcDecryptBody (s : State) : State :=
  let loaded := loadBlock s
  let kept := { loaded with nextIv := loaded.st }
  let plain := decryptState kept
  let mixed := { plain with st := xorBlock plain.st plain.chain }
  let stored := storeBlock mixed
  advance 16 { stored with chain := stored.nextIv }

/-- XOR the bytes of a chunk with the first bytes of the keystream block (R127). -/
def xorChunk (chunk : List Byte) (ks : Block) : List Byte := List.zipWith (fun d k => d ^^^ k) chunk ks.toList

/-- One chunk of CTR_XCRYPT: encrypt a copy of the counter, XOR up to 16 bytes, increment the counter (R127). -/
def ctrBody (s : State) : State :=
  let m := min 16 (s.bufLen - s.off)
  let keyed := encryptState { s with st := s.chain }
  let held := { keyed with ks := keyed.st }
  let data := memRead held.mem (held.bufAddr + held.off) m
  let stored := { held with
    mem := memWrite held.mem (held.bufAddr + held.off) (xorChunk data held.ks) }
  advance m { stored with chain := ctrInc stored.chain }

/-- The prologue and the end of every data command (R120): no context, then (where the command needs whole blocks)
the buffer length, then the body. A buffer outside plain memory has no behaviour in the spec (`20_memory.md` R47, U6)
and is refused after the checks. -/
def dataCommand (wholeBlocks : Bool) (body : State → State) (s : State) : Outcome :=
  if s.valid = false then raise .noContext s
  else if wholeBlocks = true ∧ s.bufLen % 16 ≠ 0 then raise .bufLen s
  else if bufferOk s = false then .refused .bufferNotMemory
  else .next (succeed (body s))

/-- ECB_ENCRYPT over the whole buffer (R122). -/
def ecbEncryptBuffer (s : State) : State := releaseScratch (overBuffer ecbEncryptBody s)

/-- ECB_DECRYPT over the whole buffer (R123). -/
def ecbDecryptBuffer (s : State) : State := releaseScratch (overBuffer ecbDecryptBody s)

/-- The loop of CBC_ENCRYPT: `CH <- CHAIN`, then the blocks (R124). -/
def cbcEncryptLoop (s : State) : State := overBuffer cbcEncryptBody { s with ch := s.chain }

/-- `CHAIN <- CH` (R124). -/
def chainFromCh (s : State) : State := { s with chain := s.ch }

/-- CBC_ENCRYPT over the whole buffer (R124). -/
def cbcEncryptBuffer (s : State) : State := releaseCh (releaseScratch (chainFromCh (cbcEncryptLoop s)))

/-- CBC_DECRYPT over the whole buffer (R125). -/
def cbcDecryptBuffer (s : State) : State := releaseNextIv (releaseScratch (overBuffer cbcDecryptBody s))

/-- CTR_XCRYPT over the whole buffer (R127). -/
def ctrBuffer (s : State) : State := releaseKs (releaseScratch (overBuffer ctrBody s))

/-- ECB_ENCRYPT (R122). -/
def execEcbEncrypt (s : State) : Outcome := dataCommand true ecbEncryptBuffer s

/-- ECB_DECRYPT (R123). -/
def execEcbDecrypt (s : State) : Outcome := dataCommand true ecbDecryptBuffer s

/-- CBC_ENCRYPT (R124). -/
def execCbcEncrypt (s : State) : Outcome := dataCommand true cbcEncryptBuffer s

/-- CBC_DECRYPT (R125). -/
def execCbcDecrypt (s : State) : Outcome := dataCommand true cbcDecryptBuffer s

/-- CTR_XCRYPT (R127): no condition on the length. -/
def execCtrXcrypt (s : State) : Outcome := dataCommand false ctrBuffer s

end Sys2Proof.Machine
end

