-- ==== Sys2Proof/Machine/Dispatch.lean ====
section
/-! DEFINITION. One arm per instruction: each is a direct call of its meaning. -/

namespace Sys2Proof.Machine

def exec (i : Instr) (s : State) : Host.Outcome State Fault Refusal :=
  match i with
  | .new variant mode => Sys2Proof.Machine.execNew variant mode s
  | .setIv => Sys2Proof.Machine.execSetIv s
  | .ecbEncrypt => Sys2Proof.Machine.execEcbEncrypt s
  | .ecbDecrypt => Sys2Proof.Machine.execEcbDecrypt s
  | .cbcEncrypt => Sys2Proof.Machine.execCbcEncrypt s
  | .cbcDecrypt => Sys2Proof.Machine.execCbcDecrypt s
  | .ctrXcrypt => Sys2Proof.Machine.execCtrXcrypt s
  | .subBytes => Sys2Proof.Machine.execSubBytes s
  | .shiftRows => Sys2Proof.Machine.execShiftRows s
  | .mixColumns => Sys2Proof.Machine.execMixColumns s
  | .addRoundKey => Sys2Proof.Machine.execAddRoundKey s
  | .invSubBytes => Sys2Proof.Machine.execInvSubBytes s
  | .invShiftRows => Sys2Proof.Machine.execInvShiftRows s
  | .invMixColumns => Sys2Proof.Machine.execInvMixColumns s

end Sys2Proof.Machine
end

