-- ==== Sys2Proof/WellFormed.lean ====
section
/-! DEFINITION. Which instructions the encoding tables admit: code 3 is reserved in both fields of NEW
(`30_encoding.md` R62, R63, R65). -/

namespace Sys2Proof

/-- The checks on an instruction's fields: a NEW has neither the reserved Variant code nor the reserved Mode code. -/
def wellFormed : Instr → Bool
  | .new variant mode => variant != 3 && mode != 3
  | .setIv => true
  | .ecbEncrypt => true
  | .ecbDecrypt => true
  | .cbcEncrypt => true
  | .cbcDecrypt => true
  | .ctrXcrypt => true
  | .subBytes => true
  | .shiftRows => true
  | .mixColumns => true
  | .addRoundKey => true
  | .invSubBytes => true
  | .invShiftRows => true
  | .invMixColumns => true

/-- Is the instruction a command the host can issue (the `CMD` format), as against a micro-operation (R67)? -/
def isCommand : Instr → Bool
  | .new _ _ => true
  | .setIv => true
  | .ecbEncrypt => true
  | .ecbDecrypt => true
  | .cbcEncrypt => true
  | .cbcDecrypt => true
  | .ctrXcrypt => true
  | .subBytes => false
  | .shiftRows => false
  | .mixColumns => false
  | .addRoundKey => false
  | .invSubBytes => false
  | .invShiftRows => false
  | .invMixColumns => false

end Sys2Proof
end

