-- ==== Sys2Proof/Decode.lean ====
section
/-! DEFINITION. Command words and micro-operation codes to instructions, and back (`30_encoding.md` R60 to R67).
Decoding depends on the code alone, never on the engine's state (R66). -/

namespace Sys2Proof

/-- What carries an instruction: an 8-bit word written to `CMD` (R60), or a 4-bit micro-operation code (R67). -/
inductive Code where
  | cmd (word : BitVec 8)
  | uop (code : BitVec 4)
  deriving DecidableEq, Repr

/-- Why a code names no operation. -/
inductive Reject where
  /-- Bit 7 of a command word is set (R60 field `Z`). -/
  | bit7Set
  /-- `OP = 0` (R61). -/
  | opZero
  /-- NEW with `VARIANT = 3` (R62). -/
  | reservedVariant
  /-- NEW with `MODE = 3` (R63). -/
  | reservedMode
  /-- A command other than NEW with a non-zero `VARIANT` or `MODE` field (R65). -/
  | strayField
  /-- A micro-operation code that is not used (R67). -/
  | unusedMicroOp
  deriving DecidableEq, Repr

/-- The decoder's answer. -/
inductive Decoded where
  | instr (i : Instr)
  | reject (why : Reject)
  deriving DecidableEq, Repr

/-- Field `OP`, bits 2:0 (R60). -/
def cmdOp (w : BitVec 8) : BitVec 3 := w.extractLsb' 0 3

/-- Field `VARIANT`, bits 4:3 (R60). -/
def cmdVariant (w : BitVec 8) : BitVec 2 := w.extractLsb' 3 2

/-- Field `MODE`, bits 6:5 (R60). -/
def cmdMode (w : BitVec 8) : BitVec 2 := w.extractLsb' 5 2

/-- The operation of a command word whose fields are legal and whose `OP` is 2 to 7 (R61). -/
def plainCommand (op : BitVec 3) : Decoded :=
  if op = 2 then .instr .setIv
  else if op = 3 then .instr .ecbEncrypt
  else if op = 4 then .instr .ecbDecrypt
  else if op = 5 then .instr .cbcEncrypt
  else if op = 6 then .instr .cbcDecrypt
  else if op = 7 then .instr .ctrXcrypt
  else .reject .opZero

/-- Decode a word written to `CMD` (R60 to R65): 15 legal words, 241 rejected by name. -/
def decodeCmd (w : BitVec 8) : Decoded :=
  if w.getLsbD 7 then .reject .bit7Set
  else if cmdOp w = 0 then .reject .opZero
  else if cmdOp w = 1 then
    if cmdVariant w = 3 then .reject .reservedVariant
    else if cmdMode w = 3 then .reject .reservedMode
    else .instr (.new (cmdVariant w) (cmdMode w))
  else if cmdVariant w ≠ 0 ∨ cmdMode w ≠ 0 then .reject .strayField
  else plainCommand (cmdOp w)

/-- Decode a micro-operation code (R67): bit 3 `INV`, bit 2 zero, bits 1:0 `FN`. -/
def decodeUop (c : BitVec 4) : Decoded :=
  if c = 0x0 then .instr .subBytes
  else if c = 0x1 then .instr .shiftRows
  else if c = 0x2 then .instr .mixColumns
  else if c = 0x3 then .instr .addRoundKey
  else if c = 0x8 then .instr .invSubBytes
  else if c = 0x9 then .instr .invShiftRows
  else if c = 0xa then .instr .invMixColumns
  else .reject .unusedMicroOp

/-- Decode either carrier. -/
def decode : Code → Decoded
  | .cmd w => decodeCmd w
  | .uop c => decodeUop c

/-- The code of an instruction (R61, R65, R67). A NEW is `0 ++ MODE ++ VARIANT ++ 001`. -/
def encode : Instr → Code
  | .new variant mode => .cmd (0#1 ++ mode ++ variant ++ 1#3)
  | .setIv => .cmd 0x02
  | .ecbEncrypt => .cmd 0x03
  | .ecbDecrypt => .cmd 0x04
  | .cbcEncrypt => .cmd 0x05
  | .cbcDecrypt => .cmd 0x06
  | .ctrXcrypt => .cmd 0x07
  | .subBytes => .uop 0x0
  | .shiftRows => .uop 0x1
  | .mixColumns => .uop 0x2
  | .addRoundKey => .uop 0x3
  | .invSubBytes => .uop 0x8
  | .invShiftRows => .uop 0x9
  | .invMixColumns => .uop 0xa

/-- The instruction of an accepted code. -/
def decodedInstr : Decoded → Option Instr
  | .instr i => some i
  | .reject _ => none

/-- The instruction the decoder reads from a table row's bits. The table has two formats that share small values
(`0x1` is SHIFTROWS as a `UOP` and NEW as a `CMD`), so the row's width says which: 4 bits are a micro-operation
code, 8 bits a command word; the table has no other width. DESIGN CHOICE, safe: log 7. -/
def decodeTableWord (nbits w : Nat) : Option Instr :=
  if nbits = 4 then decodedInstr (decodeUop (BitVec.ofNat 4 w))
  else if nbits = 8 then decodedInstr (decodeCmd (BitVec.ofNat 8 w))
  else none

end Sys2Proof
end

