-- ==== Sys2Proof/Machine/HostPort.lean ====
section
/-! DEFINITION. What the engine is asked to do next (a command word, a micro-operation of its sequencer, another host
action), the host's accesses and the platform's reset (`45_context.md` R142, `70_reset_and_hazards.md` R180 to R189), and
the spec's line notation for host programs (`30_encoding.md` R68). -/

namespace Sys2Proof.Machine

/-- What a step has to do. -/
inductive Task where
  /-- Nothing: no micro-operation and no host action is pending. -/
  | idle
  /-- Run a decoded instruction. -/
  | run (i : Instr)
  /-- A command word that is none of the 15 legal values. -/
  | illegalCommand
  /-- A host action other than a write of `CMD`. -/
  | access (a : HostAction)
  /-- No behaviour: stop under a name. -/
  | stop (why : Refusal)
  deriving DecidableEq, Repr

/-- The task of a command word written to `CMD` (R60, R120 (1)); while a command is in progress the host may not write
`CMD` (R182, U9). -/
def commandTask (busy : Bool) (w : BitVec 8) : Task :=
  if busy then .stop .hostDuringCommand
  else
    match decodeCmd w with
    | .instr i => .run i
    | .reject _ => .illegalCommand

/-- The task of a micro-operation code at the sequencer's port (R67). -/
def microOpTask (c : BitVec 4) : Task :=
  match decodeUop c with
  | .instr i => .run i
  | .reject _ => .stop .unusedMicroOp

/-- Take the next thing to do off the state: the sequencer's pending micro-operation if there is one, else the host's
first pending action. -/
def fetch (s : State) : Task × State :=
  match s.uop, s.host with
  | some c, _ => (microOpTask c, { s with uop := none })
  | none, [] => (.idle, s)
  | none, .write .cmd v :: rest => (commandTask s.busy (BitVec.ofNat 8 v), { s with host := rest })
  | none, a :: rest => (.access a, { s with host := rest })

/-- May the host do this while a command is in progress: poll `STATUS`, reset, or touch memory outside the buffer
(R182, R184)? -/
def allowedWhileBusy (s : State) : HostAction → Bool
  | .write _ _ => false
  | .read r => r == .status
  | .memWrite a _ => !inBuffer s a
  | .memRead a => !inBuffer s a
  | .reset => true

/-- Store free bytes over a range of memory: `n` bytes at `a`, from a place of a draw on. -/
def scramble (m : List Host.Cell) (a : Nat) (draw place : Nat) : (n : Nat) → List Host.Cell
  | 0 => m
  | n + 1 => scramble (writeByte m a (Config.freeByte draw place)) (a + 1) draw (place + 1) n

/-- Memory after a reset: untouched; when a command was in progress its buffer is unspecified (R180, U8). Log 12. -/
def memAfterReset (s : State) : List Host.Cell :=
  if s.busy && bufferOk s then scramble s.mem s.bufAddr s.draws 1000 s.bufLen else s.mem

/-- The platform's reset as a step (R180): `VALID`, `ERR` and `BUSY` as R24 gives them; every other register
unspecified, that is free; memory untouched. Log 10. -/
def platformReset (s : State) : State :=
  { s with
    valid := false
    variant := Config.freeVariant s.draws
    mode := Config.freeMode s.draws
    rks := Vector.ofFn fun j => Config.freeByte s.draws (200 + j.val)
    chain := freeBlock s.draws 0
    err := .ok
    busy := false
    keyIn := Vector.ofFn fun j => Config.freeByte s.draws (100 + j.val)
    keyLen := Config.freeByte s.draws 140
    ivIn := freeBlock s.draws 16
    ivLen := Config.freeByte s.draws 141
    bufAddr := Config.freeNat s.draws 0 % 2 ^ s.platform.aw
    bufLen := Config.freeNat s.draws 1 % 2 ^ s.platform.aw
    st := freeBlock s.draws 32
    ks := freeBlock s.draws 48
    nextIv := freeBlock s.draws 64
    ch := freeBlock s.draws 80
    rnd := Config.freeNat s.draws 2 % 15
    off := Config.freeNat s.draws 3 % 2 ^ s.platform.aw
    ki := Config.freeNat s.draws 4 % 60
    uop := none
    mem := memAfterReset s
    written := Written.nothing
    draws := s.draws + 1 }

/-- A host access to data memory at an address: it must exist (`20_memory.md` R40) and be plain memory (R48). -/
def hostMemory (a : Nat) (done : State) (s : State) : Outcome :=
  if 2 ^ s.platform.aw ≤ a then .fault .addressOutsideMemory
  else if plainByte s.platform a = false then .refused .notPlainMemory
  else .next done

/-- A host action other than a command (R142, R187, R189). -/
def hostAccess (a : HostAction) (s : State) : Outcome :=
  if s.busy && !allowedWhileBusy s a then .refused .hostDuringCommand
  else
    match a with
    | .write r v => .next (writeReg r v s)
    | .read r => .next (readReg r s)
    | .memWrite addr b => hostMemory addr { s with mem := writeByte s.mem addr b } s
    | .memRead addr => hostMemory addr { s with hostData := some (readByte s.mem addr).toNat } s
    | .reset => .next (platformReset s)

/-! The line notation of R68. -/

/-- One line of a host program (R68): a pseudo-instruction, or a command by its instruction. -/
inductive Line where
  /-- `KEY <hex bytes>` -/
  | key (bytes : List Byte)
  /-- `KEYLEN <n>` -/
  | keylen (n : Nat)
  /-- `IV <hex bytes>` -/
  | iv (bytes : List Byte)
  /-- `IVLEN <n>` -/
  | ivlen (n : Nat)
  /-- `BUF <addr>, <len>` -/
  | buf (addr len : Nat)
  /-- A command line. -/
  | command (i : Instr)
  deriving DecidableEq, Repr

/-- The writes of the bytes of `KEY_IN` from byte `j` on; there are 32 (R68). -/
def keyWrites : (j : Nat) → List Byte → List HostAction
  | _, [] => []
  | j, b :: bs => if h : j < 32 then .write (.keyIn ⟨j, h⟩) b.toNat :: keyWrites (j + 1) bs else []

/-- The writes of the bytes of `IV_IN` from byte `j` on; there are 16 (R68). -/
def ivWrites : (j : Nat) → List Byte → List HostAction
  | _, [] => []
  | j, b :: bs => if h : j < 16 then .write (.ivIn ⟨j, h⟩) b.toNat :: ivWrites (j + 1) bs else []

/-- The register writes and the command a line expands to (R68). A micro-operation is no line: the host cannot issue it
(R67). -/
def assemble : Line → List HostAction
  | .key bytes => keyWrites 0 bytes ++ [.write .keyLen bytes.length]
  | .keylen n => [.write .keyLen n]
  | .iv bytes => ivWrites 0 bytes ++ [.write .ivLen bytes.length]
  | .ivlen n => [.write .ivLen n]
  | .buf addr len => [.write .bufAddr addr, .write .bufLen len]
  | .command i =>
    match encode i with
    | .cmd w => [.write .cmd w.toNat]
    | .uop _ => []

end Sys2Proof.Machine
end

