-- ==== Sys2Proof/Machine/Step.lean ====
section
/-! DEFINITION. One step: take the next thing to do and do it. One command is one step (`00_scope.md` R5). -/

namespace Sys2Proof.Machine

/-- One step of the engine: the sequencer's pending micro-operation, else the host's next action; an idle engine stays
as it is (`10_state.md` R22, R24). -/
def step (s : State) : Host.Outcome State Fault Refusal :=
  match fetch s with
  | (.idle, t) => .next t
  | (.run i, t) => exec i t
  | (.illegalCommand, t) => raise .illegalCmd t
  | (.access a, t) => hostAccess a t
  | (.stop why, _) => .refused why

/-- The state with an instruction of the table placed where `step` fetches its next one: a 4-bit row at the sequencer's
port, an 8-bit row as the host's next write of `CMD`, with the ports free to take it. Log 5, log 7. -/
def State.withFetchWord (s : State) (nbits w : Nat) : State :=
  if nbits = 4 then { s with uop := some (BitVec.ofNat 4 w) }
  else { s with uop := none, busy := false, host := .write .cmd (w % 256) :: s.host }

end Sys2Proof.Machine
end

