-- ==== Sys2Proof/Machine/Sequencer.lean ====
section
/-! DEFINITION. The round sequencer as the list of micro-operations it issues (`43_block_cipher.md` R110, R111,
`30_encoding.md` R67), each run by `exec` with its round number in `RND`. The mode driver uses the functions
`encryptBlock` and `decryptBlock` of Machine/Cipher.lean; an obligation says the two agree. -/

namespace Sys2Proof.Machine

/-- Issue micro-operations in order, each with its round number in `RND`; stop where one stops. -/
def issue : List (Nat × Instr) → State → Outcome
  | [], s => .next s
  | (round, i) :: rest, s =>
    match exec i { s with rnd := round } with
    | .next t => issue rest t
    | .fault r => .fault r
    | .refused r => .refused r

/-- One full round of EncryptBlock (R110). -/
def encryptRoundProgram (round : Nat) : List (Nat × Instr) :=
  [(round, .subBytes), (round, .shiftRows), (round, .mixColumns), (round, .addRoundKey)]

/-- The micro-operations of EncryptBlock in order (R110). -/
def encryptProgram (nr : Nat) : List (Nat × Instr) :=
  [(0, .addRoundKey)] ++ (List.range' 1 (nr - 1)).flatMap encryptRoundProgram
    ++ [(nr, .subBytes), (nr, .shiftRows), (nr, .addRoundKey)]

/-- One full round of DecryptBlock: ADDROUNDKEY before INVMIXCOLUMNS (R111). -/
def decryptRoundProgram (round : Nat) : List (Nat × Instr) :=
  [(round, .invShiftRows), (round, .invSubBytes), (round, .addRoundKey), (round, .invMixColumns)]

/-- The micro-operations of DecryptBlock in order (R111). -/
def decryptProgram (nr : Nat) : List (Nat × Instr) :=
  [(nr, .addRoundKey)] ++ (List.range' 1 (nr - 1)).reverse.flatMap decryptRoundProgram
    ++ [(0, .invShiftRows), (0, .invSubBytes), (0, .addRoundKey)]

end Sys2Proof.Machine
end

