-- ==== Sys2Proof/Safety.lean ====
section
/-! DEFINITION. The terms claims are stated in: the invariants, when a run stays inside the spec, the error each command
reports, the conditions under which a data command runs, and readings of a block. -/

namespace Sys2Proof.Machine

/-- Byte `j` of a block, `j < 16`. -/
def byteAt (b : Block) (j : Nat) : Byte := b[j]?.getD 0

/-- `val(C)`: a block read as a 128-bit big-endian number (`44_mode_driver.md` R126). -/
def blockVal (b : Block) : Nat := b.toList.foldl (fun acc x => acc * 256 + x.toNat) 0

/-- The counter `n` increments after `c` (R127). -/
def ctrAfter (n : Nat) (c : Block) : Block := ctrInc^[n] c

/-- Is the instruction one of the five data commands (R120)? -/
def isData : Instr → Bool
  | .ecbEncrypt | .ecbDecrypt | .cbcEncrypt | .cbcDecrypt | .ctrXcrypt => true
  | .new _ _ | .setIv => false
  | .subBytes | .shiftRows | .mixColumns | .addRoundKey | .invSubBytes | .invShiftRows | .invMixColumns => false

/-- Is it one of the four data commands that need whole blocks (`60_exceptions.md` R154)? -/
def needsBlocks : Instr → Bool
  | .ecbEncrypt | .ecbDecrypt | .cbcEncrypt | .cbcDecrypt => true
  | .ctrXcrypt | .new _ _ | .setIv => false
  | .subBytes | .shiftRows | .mixColumns | .addRoundKey | .invSubBytes | .invShiftRows | .invMixColumns => false

/-- An ECB or CBC command runs its body: a context, a length of whole blocks, a legal buffer (R120, `20_memory.md`
R47). -/
abbrev BlocksReady (s : State) : Prop := s.valid = true ∧ s.bufLen % 16 = 0 ∧ bufferOk s = true

/-- CTR_XCRYPT runs its body: a context and a legal buffer (R120, R127). -/
abbrev ChunksReady (s : State) : Prop := s.valid = true ∧ bufferOk s = true

/-- The outcome code of a command: the first check of R157 that applies, `ok` if none does. -/
def reportedErr (i : Instr) (s : State) : Err :=
  match i with
  | .new v m =>
    match variantOfCode v, modeOfCode m with
    | some v, some _ =>
      if s.keyLen.toNat ≠ 4 * nkOf v then .keyLen else if s.ivLen.toNat ≠ 16 then .ivLen else .ok
    | _, _ => .illegalCmd
  | .setIv => if s.valid = false then .noContext else if s.ivLen.toNat ≠ 16 then .ivLen else .ok
  | .ctrXcrypt => if s.valid = false then .noContext else .ok
  | .ecbEncrypt | .ecbDecrypt | .cbcEncrypt | .cbcDecrypt =>
    if s.valid = false then .noContext else if s.bufLen % 16 ≠ 0 then .bufLen else .ok
  | .subBytes | .shiftRows | .mixColumns | .addRoundKey | .invSubBytes | .invShiftRows | .invMixColumns => .ok

/-- An outcome with its next state changed by a function, a stop left as it is. -/
def mapNext (f : State → State) : Outcome → Outcome
  | .next t => .next (f t)
  | .fault r => .fault r
  | .refused r => .refused r

/-- What every data command leaves alone (`44_mode_driver.md` R122 to R127, `10_state.md` R16): the context's `VALID`,
`VARIANT`, `MODE` and schedule, the operand registers, the scratch `KI`, the sequencer's port, and the host's side. -/
structure DataFrame (s t : State) : Prop where
  valid : t.valid = s.valid
  variant : t.variant = s.variant
  mode : t.mode = s.mode
  rks : t.rks = s.rks
  keyIn : t.keyIn = s.keyIn
  keyLen : t.keyLen = s.keyLen
  ivIn : t.ivIn = s.ivIn
  ivLen : t.ivLen = s.ivLen
  bufAddr : t.bufAddr = s.bufAddr
  bufLen : t.bufLen = s.bufLen
  ki : t.ki = s.ki
  uop : t.uop = s.uop
  platform : t.platform = s.platform
  host : t.host = s.host
  hostData : t.hostData = s.hostData
  written : t.written = s.written

/-- Every byte outside the buffer reads as before (`20_memory.md` R41). -/
def MemoryOutsideBufferKept (s t : State) : Prop :=
  ∀ a, a < s.bufAddr ∨ s.bufAddr + s.bufLen ≤ a → readByte t.mem a = readByte s.mem a

/-- Memory is in its canonical form and lists addresses of data memory only (`20_memory.md` R40). -/
abbrev MemoryInv (s : State) : Prop := MemWf s.mem ∧ ∀ c ∈ s.mem, c.1 < 2 ^ s.platform.aw

/-- The numbered registers lie in their ranges: `AW >= 1` (`92_eei_decisions.md`), `BUF_ADDR` and `BUF_LEN` below
`2^AW` (`10_state.md` R16), `RND` at most 14, `KI` at most 59, `OFF` below `2^AW` (R17). -/
abbrev RangesInv (s : State) : Prop :=
  1 ≤ s.platform.aw ∧ s.bufAddr < 2 ^ s.platform.aw ∧ s.bufLen < 2 ^ s.platform.aw ∧
    s.rnd ≤ 14 ∧ s.off < 2 ^ s.platform.aw ∧ s.ki ≤ 59

/-- The invariant of the plain data. -/
abbrev Inv (s : State) : Prop := MemoryInv s ∧ RangesInv s

/-- A context's schedule is the expansion of some key of its Variant's length (`10_state.md` R12). -/
def ScheduleInv (s : State) : Prop :=
  s.valid = true → ∃ key : List Byte, key.length = 4 * nkOf s.variant ∧
    ∀ j, j < scheduleLen s.variant → s.rks[j]? = (keyExpand key s.variant)[j]?

/-- Between commands the engine is idle: not busy, no micro-operation pending (`10_state.md` R14, R22). -/
abbrev BetweenCommands (s : State) : Prop := s.busy = false ∧ s.uop = none

/-- Has the host written every operand the instruction reads since reset (`93_implementation_defined.md` U1,
`70_reset_and_hazards.md` R181 (3))? A run that is not so is outside the spec, although the model goes on with the
values the registers hold (log 2). -/
def operandsWritten (i : Instr) (s : State) : Bool :=
  match i with
  | .new _ _ => s.written.keyLen && s.written.ivLen &&
      (s.written.keyIn.toList.take s.keyLen.toNat).all id && (s.written.ivIn.toList.take s.ivLen.toNat).all id
  | .setIv => s.written.ivLen && (s.written.ivIn.toList.take s.ivLen.toNat).all id
  | .ecbEncrypt | .ecbDecrypt | .cbcEncrypt | .cbcDecrypt | .ctrXcrypt => s.written.bufAddr && s.written.bufLen
  | .subBytes | .shiftRows | .mixColumns | .addRoundKey | .invSubBytes | .invShiftRows | .invMixColumns => true

/-- The operand registers of `t` put into `u` (`10_state.md` R16). -/
def withOperandsOf (t u : State) : State :=
  { u with
    keyIn := t.keyIn
    keyLen := t.keyLen
    ivIn := t.ivIn
    ivLen := t.ivLen
    bufAddr := t.bufAddr
    bufLen := t.bufLen }

/-- Two states that differ only in what the operand registers hold that the host has not written since reset
(`93_implementation_defined.md` U1, log 2). -/
structure AgreeWhereWritten (s t : State) : Prop where
  others : t = withOperandsOf t s
  keyLen : s.written.keyLen = true → t.keyLen = s.keyLen
  ivLen : s.written.ivLen = true → t.ivLen = s.ivLen
  bufAddr : s.written.bufAddr = true → t.bufAddr = s.bufAddr
  bufLen : s.written.bufLen = true → t.bufLen = s.bufLen
  keyIn : ∀ j : Fin 32, s.written.keyIn[j] = true → t.keyIn[j] = s.keyIn[j]
  ivIn : ∀ j : Fin 16, s.written.ivIn[j] = true → t.ivIn[j] = s.ivIn[j]

/-- Has the host written the operand register it reads since reset? True of a register that is no operand
(`10_state.md` R24, log 2). -/
def readWritten (r : HostReg) (s : State) : Bool :=
  match r with
  | .keyLen => s.written.keyLen
  | .ivLen => s.written.ivLen
  | .bufAddr => s.written.bufAddr
  | .bufLen => s.written.bufLen
  | .keyIn j => s.written.keyIn[j]
  | .ivIn j => s.written.ivIn[j]
  | .cmd | .status | .ctxCfg => true
  | .chain _ | .rks _ => true

/-- Does an outcome give a next state? -/
def goesOn : Outcome → Bool
  | .next _ => true
  | .fault _ => false
  | .refused _ => false

/-- Does the next step stay inside the spec (R187)? It gives a next state, a command has its operands written (U1), and
a host read reads a register that has a specified value (U2, U3, U4, U13, `10_state.md` R24). -/
def stepInSpec (s : State) : Bool :=
  goesOn (step s) &&
    match (fetch s).1 with
    | .run i => operandsWritten i s
    | .access (.read r) => (readValue r s).isSome && readWritten r s
    | .access _ => true
    | .illegalCommand => true
    | .idle => true
    | .stop _ => false

end Sys2Proof.Machine
end

