-- ==== Sys2Proof/Certificates/Slice0/Obligations.lean ====
section
/-! DEFINITION. The statements for the provers. Each formalises the rule its docstring names. -/

open Sys2Proof Sys2Proof.Machine

/-! Reset and the layout of the status registers. -/

/-- R24, R180: what the spec fixes after reset (the engine without a context, no error, not busy), and that the engine is
idle with nothing listed in memory (logs 3 and 5). -/
def Obligations.ResetHasNoContext : Prop :=
  State.reset.valid = false ∧ State.reset.err = .ok ∧ State.reset.busy = false ∧
    State.reset.uop = none ∧ State.reset.host = [] ∧ State.reset.mem = []

/-- R151, R62, R63: the codes of the errors, Variants and Modes; R11, R14: the bit layouts of `STATUS` and `CTX_CFG` as the
host reads them, so that with a context `CTX_CFG` is `(MODE << 3) | (VARIANT << 1) | 1`. -/
def Obligations.StatusAndConfigLayout : Prop :=
  (errCode .ok = 0 ∧ errCode .keyLen = 1 ∧ errCode .ivLen = 2 ∧ errCode .bufLen = 3 ∧ errCode .noContext = 4 ∧
    errCode .illegalCmd = 5) ∧
  (variantCode .aes128 = 0 ∧ variantCode .aes192 = 1 ∧ variantCode .aes256 = 2 ∧
    (∀ v, variantOfCode (variantCode v) = some v) ∧ variantOfCode 3 = none) ∧
  (modeCode .ecb = 0 ∧ modeCode .cbc = 1 ∧ modeCode .ctr = 2 ∧
    (∀ m, modeOfCode (modeCode m) = some m) ∧ modeOfCode 3 = none) ∧
  ∀ s : State,
    (statusByte s).extractLsb' 0 3 = errCode s.err ∧ (statusByte s).extractLsb' 3 4 = 0 ∧
    (statusByte s).getLsbD 7 = s.busy ∧
    (ctxCfgByte s).getLsbD 0 = s.valid ∧ (ctxCfgByte s).extractLsb' 1 2 = variantCode s.variant ∧
    (ctxCfgByte s).extractLsb' 3 2 = modeCode s.mode ∧ (ctxCfgByte s).extractLsb' 5 3 = 0 ∧
    (s.valid = true → (ctxCfgByte s).toNat = 8 * (modeCode s.mode).toNat + 2 * (variantCode s.variant).toNat + 1)

/-! Encoding. -/

/-- R65, R67: decoding what an instruction encodes to gives the instruction back exactly when it is well formed, and every
accepted code is the code of the well-formed instruction it decodes to, so no two codes mean one instruction. -/
def Obligations.DecodeAndEncodeAgree : Prop :=
  (∀ i : Instr, decode (encode i) = .instr i ↔ wellFormed i = true) ∧
  (∀ (c : Code) (i : Instr), decode c = .instr i → wellFormed i = true ∧ encode i = c)

/-- R65: the whole map of the 15 legal `CMD` values, and an illegal word of each kind; R67: the whole map of the seven
micro-operation codes, and a code that is not used. -/
def Obligations.SampleWordsDecode : Prop :=
  (decode (.cmd 0x01) = .instr (.new 0 0) ∧ decode (.cmd 0x09) = .instr (.new 1 0) ∧
    decode (.cmd 0x11) = .instr (.new 2 0) ∧ decode (.cmd 0x21) = .instr (.new 0 1) ∧
    decode (.cmd 0x29) = .instr (.new 1 1) ∧ decode (.cmd 0x31) = .instr (.new 2 1) ∧
    decode (.cmd 0x41) = .instr (.new 0 2) ∧ decode (.cmd 0x49) = .instr (.new 1 2) ∧
    decode (.cmd 0x51) = .instr (.new 2 2)) ∧
  (decode (.cmd 0x02) = .instr .setIv ∧ decode (.cmd 0x03) = .instr .ecbEncrypt ∧
    decode (.cmd 0x04) = .instr .ecbDecrypt ∧ decode (.cmd 0x05) = .instr .cbcEncrypt ∧
    decode (.cmd 0x06) = .instr .cbcDecrypt ∧ decode (.cmd 0x07) = .instr .ctrXcrypt) ∧
  (decode (.cmd 0x19) = .reject .reservedVariant ∧ decode (.cmd 0x61) = .reject .reservedMode ∧
    decode (.cmd 0x0b) = .reject .strayField ∧ decode (.cmd 0x81) = .reject .bit7Set ∧
    decode (.cmd 0x08) = .reject .opZero) ∧
  (decode (.uop 0x0) = .instr .subBytes ∧ decode (.uop 0x1) = .instr .shiftRows ∧
    decode (.uop 0x2) = .instr .mixColumns ∧ decode (.uop 0x3) = .instr .addRoundKey ∧
    decode (.uop 0x8) = .instr .invSubBytes ∧ decode (.uop 0x9) = .instr .invShiftRows ∧
    decode (.uop 0xa) = .instr .invMixColumns ∧ decode (.uop 0xb) = .reject .unusedMicroOp)

/-- R65, R156: a host write to `CMD` of a value that is not one of the 15 legal ones raises ERR_ILLEGAL_CMD and changes
nothing else, whatever the state between commands (the write is gone from the host's list, log 5). -/
def Obligations.IllegalCommandWordIsReported : Prop :=
  ∀ (s : State) (w : BitVec 8) (rest : List HostAction), BetweenCommands s →
    w ∉ ([0x01, 0x09, 0x11, 0x21, 0x29, 0x31, 0x41, 0x49, 0x51, 0x02, 0x03, 0x04, 0x05, 0x06, 0x07] : List (BitVec 8)) →
    step { s with host := .write .cmd w.toNat :: rest } = .next { s with host := rest, err := .illegalCmd }

/-! Steps. -/

/-- A step runs the decoded command: a write to `CMD` whose word decodes to `i` is `exec i` at the state with that write
taken off the host's list (the engine has no program counter to advance, R22). -/
def Obligations.StepRunsTheDecodedCommand : Prop :=
  ∀ (s : State) (w : BitVec 8) (rest : List HostAction) (i : Instr), BetweenCommands s →
    decode (.cmd w) = .instr i →
    step { s with host := .write .cmd w.toNat :: rest } = exec i { s with host := rest } ∧
    step (s.withFetchWord 8 w.toNat) = exec i s

/-- A step runs the micro-operation at the sequencer's port (R67), and the port is empty afterwards. -/
def Obligations.StepRunsTheDecodedMicroOp : Prop :=
  ∀ (s : State) (c : BitVec 4) (i : Instr), decode (.uop c) = .instr i →
    step { s with uop := some c } = exec i { s with uop := none } ∧
    step (s.withFetchWord 4 c.toNat) = exec i { s with uop := none }

/-- R67, U11 (`93_implementation_defined.md`, log 20): a code at the sequencer's port that is none of the seven used ones
stops the step by name. -/
def Obligations.UnusedMicroOpStops : Prop :=
  ∀ (s : State) (c : BitVec 4), c ∉ ([0x0, 0x1, 0x2, 0x3, 0x8, 0x9, 0xa] : List (BitVec 4)) →
    step { s with uop := some c } = .refused .unusedMicroOp

/-! Tables and field arithmetic. -/

/-- R81: shift left by one, then XOR with 1b if the bit shifted out was 1. -/
def Obligations.XtimeShiftsAndReduces : Prop :=
  ∀ b : Byte, xtime b =
    if b.getLsbD 7 then BitVec.ofNat 8 (2 * b.toNat) ^^^ 0x1b else BitVec.ofNat 8 (2 * b.toNat)

/-- R80, R82: with a byte read as a polynomial over GF(2), XOR is addition, and `gmul` is multiplication modulo
x^8+x^4+x^3+x+1. -/
def Obligations.GmulMultipliesInTheField : Prop :=
  let poly (b : Byte) : Polynomial (ZMod 2) :=
    ∑ i ∈ Finset.range 8, if b.getLsbD i then Polynomial.X ^ i else 0
  (∀ a b : Byte, poly (a ^^^ b) = poly a + poly b) ∧
  ∀ b k : Byte, (Polynomial.X ^ 8 + Polynomial.X ^ 4 + Polynomial.X ^ 3 + Polynomial.X + 1 : Polynomial (ZMod 2)) ∣
    poly b * poly k - poly (gmul b k)

/-- R86 (a): every entry of `SBOX` is the affine map of the multiplicative inverse of its index (of 0 for index 0). -/
def Obligations.SboxIsAffineOfInverse : Prop :=
  ∀ b : Byte, ∃ c : Byte, (b = 0 ∧ c = 0 ∨ gmul b c = 1) ∧
    sbox b = c ^^^ c.rotateLeft 1 ^^^ c.rotateLeft 2 ^^^ c.rotateLeft 3 ^^^ c.rotateLeft 4 ^^^ 0x63

/-! Key schedule. -/

/-- R6: Nk and Nr of each Variant; R85: `RCON` begins with 01 and each entry is `xtime` of the one before (the entries are
PRESUMED, log 16); R90 to R92: the bytes of a word, of `RotWord`, of `SubWord`, and of the two XORs; R93, R94: the schedule
has 176, 208 or 240 bytes, begins with the key, and word `i` is word `i−Nk` XOR the transformed word `i−1`. -/
def Obligations.KeyExpandFollowsItsRecurrence : Prop :=
  (nkOf .aes128 = 4 ∧ nkOf .aes192 = 6 ∧ nkOf .aes256 = 8 ∧
    nrOf .aes128 = 10 ∧ nrOf .aes192 = 12 ∧ nrOf .aes256 = 14) ∧
  (rcon 1 = 0x01 ∧ ∀ j, 1 ≤ j → j ≤ 9 → rcon (j + 1) = xtime (rcon j)) ∧
  (∀ (bytes : List Byte) (i : Nat), wordOf bytes i =
    #v[bytes.getD (4 * i) 0, bytes.getD (4 * i + 1) 0, bytes.getD (4 * i + 2) 0, bytes.getD (4 * i + 3) 0]) ∧
  (∀ w u : Word, ∀ b : Byte,
    rotWord w = #v[w[1], w[2], w[3], w[0]] ∧
    subWord w = #v[sbox w[0], sbox w[1], sbox w[2], sbox w[3]] ∧
    xorFirst w b = #v[w[0] ^^^ b, w[1], w[2], w[3]] ∧
    xorWord w u = #v[w[0] ^^^ u[0], w[1] ^^^ u[1], w[2] ^^^ u[2], w[3] ^^^ u[3]]) ∧
  ∀ (v : Variant) (key : List Byte), key.length = 4 * nkOf v →
    (keyExpand key v).length = (match v with | .aes128 => 176 | .aes192 => 208 | .aes256 => 240) ∧
    (keyExpand key v).length = 16 * (nrOf v + 1) ∧
    (keyExpand key v).take (4 * nkOf v) = key ∧
    ∀ i, nkOf v ≤ i → i < 4 * (nrOf v + 1) →
      let prev := wordOf (keyExpand key v) (i - 1)
      wordOf (keyExpand key v) i = xorWord (wordOf (keyExpand key v) (i - nkOf v))
        (if i % nkOf v = 0 then xorFirst (subWord (rotWord prev)) (rcon (i / nkOf v))
         else if nkOf v = 8 ∧ i % nkOf v = 4 then subWord prev
         else prev)

/-! Micro-operations: each completes in every state, with its effect on `STATE` and on nothing else. -/

/-- R101, R102: every byte of `STATE` is looked up in the table. -/
def Obligations.SubstitutionMicroOps : Prop :=
  encode .subBytes = .uop 0x0 ∧ encode .invSubBytes = .uop 0x8 ∧
  ∀ s : State,
    (∃ t, exec .subBytes s = .next t ∧ t = { s with st := t.st } ∧
      ∀ j, j < 16 → byteAt t.st j = sbox (byteAt s.st j)) ∧
    (∃ t, exec .invSubBytes s = .next t ∧ t = { s with st := t.st } ∧
      ∀ j, j < 16 → byteAt t.st j = invSbox (byteAt s.st j))

/-- R103, R104: row r is rotated left, or right, by r positions. -/
def Obligations.RowRotationMicroOps : Prop :=
  encode .shiftRows = .uop 0x1 ∧ encode .invShiftRows = .uop 0x9 ∧
  ∀ s : State,
    (∃ t, exec .shiftRows s = .next t ∧ t = { s with st := t.st } ∧
      ∀ c r, c < 4 → r < 4 → byteAt t.st (4 * c + r) = byteAt s.st (4 * ((c + r) % 4) + r)) ∧
    (∃ t, exec .invShiftRows s = .next t ∧ t = { s with st := t.st } ∧
      ∀ c r, c < 4 → r < 4 → byteAt t.st (4 * ((c + r) % 4) + r) = byteAt s.st (4 * c + r))

/-- R105: every column is replaced by its product with the matrix [[2,3,1,1],[1,2,3,1],[1,1,2,3],[3,1,1,2]]. -/
def Obligations.MixColumnsMicroOp : Prop :=
  encode .mixColumns = .uop 0x2 ∧ ∀ s : State, ∃ t, exec .mixColumns s = .next t ∧ t = { s with st := t.st } ∧
    ∀ c, c < 4 →
      let a0 := byteAt s.st (4 * c)
      let a1 := byteAt s.st (4 * c + 1)
      let a2 := byteAt s.st (4 * c + 2)
      let a3 := byteAt s.st (4 * c + 3)
      byteAt t.st (4 * c) = gmul a0 2 ^^^ gmul a1 3 ^^^ a2 ^^^ a3 ∧
      byteAt t.st (4 * c + 1) = a0 ^^^ gmul a1 2 ^^^ gmul a2 3 ^^^ a3 ∧
      byteAt t.st (4 * c + 2) = a0 ^^^ a1 ^^^ gmul a2 2 ^^^ gmul a3 3 ∧
      byteAt t.st (4 * c + 3) = gmul a0 3 ^^^ a1 ^^^ a2 ^^^ gmul a3 2

/-- R106: the same with [[14,11,13,9],[9,14,11,13],[13,9,14,11],[11,13,9,14]]. -/
def Obligations.InvMixColumnsMicroOp : Prop :=
  encode .invMixColumns = .uop 0xa ∧ ∀ s : State, ∃ t, exec .invMixColumns s = .next t ∧ t = { s with st := t.st } ∧
    ∀ c, c < 4 →
      let a0 := byteAt s.st (4 * c)
      let a1 := byteAt s.st (4 * c + 1)
      let a2 := byteAt s.st (4 * c + 2)
      let a3 := byteAt s.st (4 * c + 3)
      byteAt t.st (4 * c) = gmul a0 14 ^^^ gmul a1 11 ^^^ gmul a2 13 ^^^ gmul a3 9 ∧
      byteAt t.st (4 * c + 1) = gmul a0 9 ^^^ gmul a1 14 ^^^ gmul a2 11 ^^^ gmul a3 13 ∧
      byteAt t.st (4 * c + 2) = gmul a0 13 ^^^ gmul a1 9 ^^^ gmul a2 14 ^^^ gmul a3 11 ∧
      byteAt t.st (4 * c + 3) = gmul a0 11 ^^^ gmul a1 13 ^^^ gmul a2 9 ^^^ gmul a3 14

/-- R107: `STATE` is XORed with bytes `16·round ..` of the schedule, `round` in `RND`. For a round beyond the schedule the
bytes are free (`93_implementation_defined.md` U3, log 15): the micro-operation still completes and writes `STATE` only
(and counts the draw). -/
def Obligations.AddRoundKeyMicroOp : Prop :=
  ∀ s : State,
    (s.rnd ≤ nrOf s.variant →
      ∃ t, exec .addRoundKey s = .next t ∧ t = { s with st := t.st } ∧
        ∀ j, j < 16 → byteAt t.st j = byteAt s.st j ^^^ (s.rks[16 * s.rnd + j]?).getD 0) ∧
    (nrOf s.variant < s.rnd →
      ∃ t, exec .addRoundKey s = .next t ∧ t = { s with st := t.st, draws := t.draws })

/-- R102, R104, R106, R107: each micro-operation is undone by its inverse, in both orders; ADDROUNDKEY by itself. -/
def Obligations.MicroOpsUndoEachOther : Prop :=
  ∀ (b : Block) (rks : Vector Byte 240) (round : Nat),
    invSubBytes (subBytes b) = b ∧ subBytes (invSubBytes b) = b ∧
    invShiftRows (shiftRows b) = b ∧ shiftRows (invShiftRows b) = b ∧
    invMixColumns (mixColumns b) = b ∧ mixColumns (invMixColumns b) = b ∧
    addRoundKey rks round (addRoundKey rks round b) = b

/-! The round sequencer. -/

/-- R110, R111, R67: issuing the micro-operations of EncryptBlock, or of DecryptBlock, one by one through `exec`, from any
state, leaves the state that `EncryptBlock()` or `DecryptBlock()` of the mode driver leaves (`STATE` encrypted or decrypted
under `RKS`; `RND` at Nr, or at 0); there are 4·Nr of them. -/
def Obligations.SequencerIssuesTheBlockPrograms : Prop :=
  ∀ s : State,
    issue (encryptProgram (nrOf s.variant)) s = .next (encryptState s) ∧
    issue (decryptProgram (nrOf s.variant)) s = .next (decryptState s) ∧
    (encryptProgram (nrOf s.variant)).length = 4 * nrOf s.variant ∧
    (decryptProgram (nrOf s.variant)).length = 4 * nrOf s.variant

/-- R113: DecryptBlock undoes EncryptBlock under the same schedule, and the reverse, for every Variant and block. -/
def Obligations.BlockCipherInverseLaw : Prop :=
  ∀ (v : Variant) (rks : Vector Byte 240) (b : Block),
    decryptBlock rks (nrOf v) (encryptBlock rks (nrOf v) b) = b ∧
    encryptBlock rks (nrOf v) (decryptBlock rks (nrOf v) b) = b

/-- R126: `val(CtrInc(C)) = (val(C) + 1) mod 2^128`. -/
def Obligations.CtrIncAddsOneModulo : Prop :=
  ∀ c : Block, blockVal (ctrInc c) = (blockVal c + 1) % 2 ^ 128

/-! The context commands. -/

/-- R140: NEW with legal codes and both lengths right builds the whole context (schedule, `CHAIN`, `VARIANT`, `MODE`,
`VALID`) and reports 0; everything else but the storage beyond the schedule (log 18) and the scratch `KI` is as before (of
the other scratch, that is the model's: log 8). -/
def Obligations.NewBuildsTheContext : Prop :=
  ∀ (s : State) (vc mc : BitVec 2) (v : Variant) (m : Mode),
    variantOfCode vc = some v → modeOfCode mc = some m →
    s.keyLen.toNat = 4 * nkOf v → s.ivLen.toNat = 16 →
    ∃ t, exec (.new vc mc) s = .next t ∧
      (∀ j, j < 16 * (nrOf v + 1) → t.rks[j]? = (keyExpand (s.keyIn.toList.take (4 * nkOf v)) v)[j]?) ∧
      t = { s with
        rks := t.rks, chain := s.ivIn, variant := v, mode := m, valid := true, err := .ok, busy := false,
        ki := t.ki, draws := t.draws }

/-- R152: NEW reports ERR_KEY_LEN when `KEY_LEN` is not the length its own Variant needs, and changes nothing else. -/
def Obligations.NewReportsKeyLength : Prop :=
  ∀ (s : State) (vc mc : BitVec 2) (n : Nat), wellFormed (.new vc mc) = true →
    n = (if vc = 0 then 16 else if vc = 1 then 24 else 32) → s.keyLen.toNat ≠ n →
    exec (.new vc mc) s = .next { s with err := .keyLen, busy := false }

/-- R153: NEW, its key length right, and SET_IV with a context report ERR_IV_LEN when `IV_LEN` is not 16, for every Variant
and Mode, and change nothing else. -/
def Obligations.WrongIvLengthIsReported : Prop :=
  (∀ (s : State) (vc mc : BitVec 2) (v : Variant), wellFormed (.new vc mc) = true → variantOfCode vc = some v →
    s.keyLen.toNat = 4 * nkOf v → s.ivLen.toNat ≠ 16 →
    exec (.new vc mc) s = .next { s with err := .ivLen, busy := false }) ∧
  (∀ s : State, s.valid = true → s.ivLen.toNat ≠ 16 →
    exec .setIv s = .next { s with err := .ivLen, busy := false })

/-- R140, R156: a NEW whose field holds a reserved code reports ERR_ILLEGAL_CMD before it looks at any operand. -/
def Obligations.NewWithReservedCodeIsIllegal : Prop :=
  ∀ (s : State) (vc mc : BitVec 2), wellFormed (.new vc mc) = false →
    exec (.new vc mc) s = .next { s with err := .illegalCmd, busy := false }

/-- R141: SET_IV reports ERR_NO_CONTEXT without a context, else ERR_IV_LEN when `IV_LEN` is not 16, and changes nothing
else; with both right it replaces `CHAIN` by `IV_IN`, reports 0 and touches nothing else. -/
def Obligations.SetIvReplacesChain : Prop :=
  encode .setIv = .cmd 0x02 ∧ ∀ s : State,
    (s.valid = false → exec .setIv s = .next { s with err := .noContext, busy := false }) ∧
    (s.valid = true → s.ivLen.toNat ≠ 16 → exec .setIv s = .next { s with err := .ivLen, busy := false }) ∧
    (s.valid = true → s.ivLen.toNat = 16 →
      exec .setIv s = .next { s with chain := s.ivIn, err := .ok, busy := false })

/-! Errors. -/

/-- R155: without a context SET_IV and the five data commands report ERR_NO_CONTEXT and change nothing else; NEW never
does. -/
def Obligations.NoContextIsReported : Prop :=
  (∀ (i : Instr) (s : State), isData i = true ∨ i = .setIv → s.valid = false →
    exec i s = .next { s with err := .noContext, busy := false }) ∧
  (∀ (vc mc : BitVec 2) (s t : State), exec (.new vc mc) s = .next t → t.err ≠ .noContext)

/-- R154: the four ECB and CBC commands, with a context, report ERR_BUF_LEN when `BUF_LEN mod 16 != 0` and process no
block; CTR_XCRYPT never reports it. -/
def Obligations.WrongBufferLengthIsReported : Prop :=
  (∀ (i : Instr) (s : State), needsBlocks i = true → s.valid = true → s.bufLen % 16 ≠ 0 →
    exec i s = .next { s with err := .bufLen, busy := false }) ∧
  (∀ (i : Instr) (s t : State), needsBlocks i = true → s.bufLen = 0 → exec i s = .next t → t.err ≠ .bufLen) ∧
  (∀ s t : State, exec .ctrXcrypt s = .next t → t.err ≠ .bufLen)

/-- R157: the code a command reports is the first applicable one in the order of the table. -/
def Obligations.ErrorPriority : Prop :=
  ∀ (i : Instr) (s t : State), isCommand i = true → exec i s = .next t → t.err = reportedErr i s

/-- R158: a command that reports an error has changed nothing but `STATUS` (`BUSY` is 0 at its end, R14). -/
def Obligations.FailedCommandChangesOnlyStatus : Prop :=
  ∀ (i : Instr) (s t : State), isCommand i = true → exec i s = .next t → t.err ≠ .ok →
    t = { s with err := t.err, busy := false }

/-- R167: no instruction ends in a fault, and the only stop is a data command on an illegal buffer (`20_memory.md` R47,
U6, log 13); with a legal buffer every instruction completes. -/
def Obligations.NoFaultInsideAnInstruction : Prop :=
  ∀ (i : Instr) (s : State),
    (∃ t, exec i s = .next t) ∨
    (isData i = true ∧ reportedErr i s = .ok ∧ bufferOk s = false ∧ exec i s = .refused .bufferNotMemory)

/-- U6 (`93_implementation_defined.md`, `20_memory.md` R47, log 13): a data command that passes its checks with a buffer that
wraps the address space or leaves plain memory stops by name. -/
def Obligations.IllegalBufferStops : Prop :=
  ∀ (i : Instr) (s : State), isData i = true → reportedErr i s = .ok →
    0 < s.bufLen → (2 ^ s.platform.aw < s.bufAddr + s.bufLen ∨
      ∃ k, k < s.bufLen ∧ plainByte s.platform (s.bufAddr + k) = false) →
    exec i s = .refused .bufferNotMemory

/-- R159, D10: the error code is not sticky: what a command does and reports does not depend on the code left by the one
before. -/
def Obligations.ErrorIsNotSticky : Prop :=
  ∀ (i : Instr) (s : State) (e : Err), isCommand i = true → exec i { s with err := e } = exec i s

/-! The data commands: result and frame. -/

/-- R122: with a context, a length of whole blocks and a legal buffer, ECB_ENCRYPT completes; buffer byte `k` is byte
`k mod 16` of the encryption of its own 16-byte slice; every byte outside the buffer, `CHAIN`, and every register but
`STATUS` and the scratch `STATE`, `RND`, `OFF` are as before (of the scratch it does not use, that is the model's: log 8). -/
def Obligations.EcbEncryptResult : Prop :=
  ∀ s : State, BlocksReady s → ∃ t, exec .ecbEncrypt s = .next t ∧
    (∀ k, k < s.bufLen → readByte t.mem (s.bufAddr + k) =
      byteAt (encryptBlock s.rks (nrOf s.variant) (readBlock s.mem (s.bufAddr + 16 * (k / 16)))) (k % 16)) ∧
    MemoryOutsideBufferKept s t ∧
    DataFrame s t ∧ t.err = .ok ∧ t.busy = false ∧
    t.chain = s.chain ∧ t.ks = s.ks ∧ t.nextIv = s.nextIv ∧ t.ch = s.ch

/-- R123: the same with DecryptBlock (and log 8). -/
def Obligations.EcbDecryptResult : Prop :=
  ∀ s : State, BlocksReady s → ∃ t, exec .ecbDecrypt s = .next t ∧
    (∀ k, k < s.bufLen → readByte t.mem (s.bufAddr + k) =
      byteAt (decryptBlock s.rks (nrOf s.variant) (readBlock s.mem (s.bufAddr + 16 * (k / 16)))) (k % 16)) ∧
    MemoryOutsideBufferKept s t ∧
    DataFrame s t ∧ t.err = .ok ∧ t.busy = false ∧
    t.chain = s.chain ∧ t.ks = s.ks ∧ t.nextIv = s.nextIv ∧ t.ch = s.ch

/-- R124: ciphertext block `b` is the encryption of plaintext block `b` XOR ciphertext block `b−1` (of `CHAIN` for block 0);
`CHAIN` ends as the last ciphertext block, unchanged for an empty buffer; nothing else but `STATUS` and the scratch
`STATE`, `CH`, `RND`, `OFF` changes (of the other scratch, that is the model's: log 8). -/
def Obligations.CbcEncryptResult : Prop :=
  ∀ s : State, BlocksReady s → ∃ t, exec .cbcEncrypt s = .next t ∧
    (∀ b, 16 * b < s.bufLen → readBlock t.mem (s.bufAddr + 16 * b) =
      encryptBlock s.rks (nrOf s.variant) (xorBlock (readBlock s.mem (s.bufAddr + 16 * b))
        (if b = 0 then s.chain else readBlock t.mem (s.bufAddr + 16 * (b - 1))))) ∧
    t.chain = (if s.bufLen = 0 then s.chain else readBlock t.mem (s.bufAddr + (s.bufLen - 16))) ∧
    MemoryOutsideBufferKept s t ∧
    DataFrame s t ∧ t.err = .ok ∧ t.busy = false ∧ t.ks = s.ks ∧ t.nextIv = s.nextIv

/-- R125: plaintext block `b` is the decryption of ciphertext block `b` XOR ciphertext block `b−1` as it was before the
command (`CHAIN` for block 0); `CHAIN` ends as the last 16 bytes the buffer held before; nothing else but `STATUS` and
the scratch `STATE`, `NEXTIV`, `RND`, `OFF` changes (of the other scratch, that is the model's: log 8). -/
def Obligations.CbcDecryptResult : Prop :=
  ∀ s : State, BlocksReady s → ∃ t, exec .cbcDecrypt s = .next t ∧
    (∀ b, 16 * b < s.bufLen → readBlock t.mem (s.bufAddr + 16 * b) =
      xorBlock (decryptBlock s.rks (nrOf s.variant) (readBlock s.mem (s.bufAddr + 16 * b)))
        (if b = 0 then s.chain else readBlock s.mem (s.bufAddr + 16 * (b - 1)))) ∧
    t.chain = (if s.bufLen = 0 then s.chain else readBlock s.mem (s.bufAddr + (s.bufLen - 16))) ∧
    MemoryOutsideBufferKept s t ∧
    DataFrame s t ∧ t.err = .ok ∧ t.busy = false ∧ t.ks = s.ks ∧ t.ch = s.ch

/-- R127: for any length, buffer byte `k` is XORed with byte `k mod 16` of the encryption of the counter after `k div 16`
increments; `CHAIN` advances by `ceil(BUF_LEN / 16)`; nothing else but `STATUS` and the scratch `STATE`, `KS`, `RND`,
`OFF` changes (of the other scratch, that is the model's: log 8). -/
def Obligations.CtrXcryptResult : Prop :=
  ∀ s : State, ChunksReady s → ∃ t, exec .ctrXcrypt s = .next t ∧
    (∀ k, k < s.bufLen → readByte t.mem (s.bufAddr + k) = readByte s.mem (s.bufAddr + k) ^^^
      byteAt (encryptBlock s.rks (nrOf s.variant) (ctrAfter (k / 16) s.chain)) (k % 16)) ∧
    t.chain = ctrAfter ((s.bufLen + 15) / 16) s.chain ∧
    MemoryOutsideBufferKept s t ∧
    DataFrame s t ∧ t.err = .ok ∧ t.busy = false ∧ t.nextIv = s.nextIv ∧ t.ch = s.ch

/-- R128: an empty buffer is legal for all five data commands, wherever `BUF_ADDR` points: memory and `CHAIN` are as before
and the command reports 0. -/
def Obligations.EmptyBufferSucceeds : Prop :=
  ∀ (i : Instr) (s : State), isData i = true → s.valid = true → s.bufLen = 0 →
    ∃ t, exec i s = .next t ∧ t.mem = s.mem ∧ t.chain = s.chain ∧ t.err = .ok ∧ t.busy = false

/-- A choice, not a rule of the source: the stored Mode gates nothing (log 21, DESIGN CHOICE, unsafe for decision D12 of
`92_eei_decisions.md`, which R130 follows and from which R130 lets a model depart by refusing a mismatched command). A
data command does the same under every Mode and leaves the Mode alone. -/
def Obligations.ModeDoesNotGate : Prop :=
  ∀ (i : Instr) (s : State) (m : Mode), isData i = true →
    exec i { s with mode := m } = mapNext (fun t => { t with mode := m }) (exec i s)

/-- R64: a data command reads no key and no IV operand: with other values in those registers it does the same. And
(U1, log 2, the model's own record) a step that runs an instruction inside the spec reads no operand, and no byte of one,
that the host has not written since reset: with other values there it does the same. -/
def Obligations.DataCommandsReadBufferOperandsOnly : Prop :=
  (∀ (i : Instr) (s : State) (k : Vector Byte 32) (kl il : BitVec 8) (iv : Block), isData i = true →
    exec i { s with keyIn := k, keyLen := kl, ivIn := iv, ivLen := il } =
      mapNext (fun t => { t with keyIn := k, keyLen := kl, ivIn := iv, ivLen := il }) (exec i s)) ∧
  (∀ (i : Instr) (s t : State), operandsWritten i s = true → AgreeWhereWritten s t →
    exec i t = mapNext (withOperandsOf t) (exec i s)) ∧
  (∀ (i : Instr) (s t : State), (fetch s).1 = .run i → stepInSpec s = true → AgreeWhereWritten s t →
    step t = mapNext (withOperandsOf t) (step s))

/-! Round trips and streams. -/

/-- R123, R113: ECB_DECRYPT after ECB_ENCRYPT with the same context and operands restores memory, and the reverse. -/
def Obligations.EcbRoundTrip : Prop :=
  ∀ s : State, BlocksReady s → MemoryInv s →
    (∃ t u, exec .ecbEncrypt s = .next t ∧ exec .ecbDecrypt t = .next u ∧ u.mem = s.mem ∧ u.err = .ok) ∧
    (∃ t u, exec .ecbDecrypt s = .next t ∧ exec .ecbEncrypt t = .next u ∧ u.mem = s.mem ∧ u.err = .ok)

/-- R125: CBC_DECRYPT after CBC_ENCRYPT, with `CHAIN` set back to its start value between them by SET_IV, restores the
buffer for every number of blocks; `CHAIN` ends as after the encryption. -/
def Obligations.CbcRoundTrip : Prop :=
  ∀ s : State, BlocksReady s → MemoryInv s → s.ivLen.toNat = 16 → s.chain = s.ivIn →
    ∃ t u w, exec .cbcEncrypt s = .next t ∧ exec .setIv t = .next u ∧ exec .cbcDecrypt u = .next w ∧
      w.mem = s.mem ∧ w.chain = t.chain ∧ w.err = .ok

/-- R127: CTR_XCRYPT twice, with the counter set back to its start value between them by SET_IV, restores the buffer for
any length; `CHAIN` ends as after the first command. -/
def Obligations.CtrRoundTrip : Prop :=
  ∀ s : State, ChunksReady s → MemoryInv s → s.ivLen.toNat = 16 → s.chain = s.ivIn →
    ∃ t u w, exec .ctrXcrypt s = .next t ∧ exec .setIv t = .next u ∧ exec .ctrXcrypt u = .next w ∧
      w.mem = s.mem ∧ w.chain = t.chain ∧ w.err = .ok

/-- R129 (a): one CBC command over `n1 + n2` bytes of whole blocks gives the same memory and the same final `CHAIN` as two
commands over the first `n1` and the next `n2`, for encryption and for decryption. -/
def Obligations.CbcStreamContinues : Prop :=
  ∀ (i : Instr) (s : State) (n1 n2 : Nat), i = .cbcEncrypt ∨ i = .cbcDecrypt →
    BlocksReady s → MemoryInv s → s.bufLen = n1 + n2 → n1 % 16 = 0 →
    ∃ t u w, exec i s = .next t ∧ exec i { s with bufLen := n1 } = .next u ∧
      exec i { u with bufAddr := s.bufAddr + n1, bufLen := n2 } = .next w ∧
      w.mem = t.mem ∧ w.chain = t.chain

/-- R129 (b): the same for CTR_XCRYPT when the first command's length is a multiple of 16, the second's any. -/
def Obligations.CtrStreamContinues : Prop :=
  ∀ (s : State) (n1 n2 : Nat), ChunksReady s → MemoryInv s → s.bufLen = n1 + n2 → n1 % 16 = 0 →
    ∃ t u w, exec .ctrXcrypt s = .next t ∧ exec .ctrXcrypt { s with bufLen := n1 } = .next u ∧
      exec .ctrXcrypt { u with bufAddr := s.bufAddr + n1, bufLen := n2 } = .next w ∧
      w.mem = t.mem ∧ w.chain = t.chain

/-! Whole-machine rules. -/

/-- R16, D20: no instruction writes an operand register, nor the record of which have been written (log 2). -/
def Obligations.InstructionsKeepOperands : Prop :=
  ∀ (i : Instr) (s t : State), exec i s = .next t →
    t.keyIn = s.keyIn ∧ t.keyLen = s.keyLen ∧ t.ivIn = s.ivIn ∧ t.ivLen = s.ivLen ∧
    t.bufAddr = s.bufAddr ∧ t.bufLen = s.bufLen ∧ t.written = s.written

/-- R11, R12, R143: a step that changes the schedule, `VARIANT`, `MODE` or `VALID` runs a NEW that reports 0 and leaves
`VALID` 1, or is the platform's reset (R180) and leaves `VALID` 0. -/
def Obligations.OnlyNewWritesTheSchedule : Prop :=
  ∀ s t : State, step s = .next t →
    (t.rks = s.rks ∧ t.variant = s.variant ∧ t.mode = s.mode ∧ t.valid = s.valid) ∨
    (∃ vc mc, (fetch s).1 = .run (.new vc mc) ∧ t.err = .ok ∧ t.valid = true) ∨
    ((fetch s).1 = .access .reset ∧ t.valid = false)

/-- R13: a step that changes `CHAIN` runs NEW, SET_IV, CBC_ENCRYPT, CBC_DECRYPT or CTR_XCRYPT and reports 0, or is the
platform's reset: no host write and no ECB command changes it. -/
def Obligations.OnlyChainCommandsWriteChain : Prop :=
  ∀ s t : State, step s = .next t →
    t.chain = s.chain ∨
    (t.err = .ok ∧ ∃ i, (fetch s).1 = .run i ∧
      ((∃ vc mc, i = .new vc mc) ∨ i = .setIv ∨ i = .cbcEncrypt ∨ i = .cbcDecrypt ∨ i = .ctrXcrypt)) ∨
    (fetch s).1 = .access .reset

/-- R41: a data command writes no byte outside its buffer, and no other instruction writes memory. -/
def Obligations.InstructionsWriteTheBufferOnly : Prop :=
  ∀ (i : Instr) (s t : State), exec i s = .next t →
    (isData i = false → t.mem = s.mem) ∧
    MemoryOutsideBufferKept s t

/-! The host's accesses. -/

/-- R48: data memory returns the last byte stored; storing a byte changes no other address and nothing else; reading one
gives it to the host and changes nothing. -/
def Obligations.MemoryReturnsLastWrite : Prop :=
  ∀ (s : State) (a : Nat) (b : Byte) (rest : List HostAction), BetweenCommands s →
    a < 2 ^ s.platform.aw → plainByte s.platform a = true →
    ∃ t, step { s with host := .memWrite a b :: rest } = .next t ∧ t = { s with host := rest, mem := t.mem } ∧
      (∀ x, readByte t.mem x = if x = a then b else readByte s.mem x) ∧
      step { s with host := .memRead a :: rest } =
        .next { s with host := rest, hostData := some (readByte s.mem a).toNat }

/-- R25, R142 (a) to (d): a host read of a register with a specified value returns it and changes nothing in the engine. Of
an operand register the host has not written since reset it returns the value held, the model's choice (log 2). -/
def Obligations.RegisterReadReturnsTheValue : Prop :=
  ∀ (s : State) (rest : List HostAction), BetweenCommands s →
    step { s with host := .read .status :: rest } = .next { s with host := rest, hostData := some (statusByte s).toNat } ∧
    (s.valid = true → step { s with host := .read .ctxCfg :: rest } =
      .next { s with host := rest, hostData := some (ctxCfgByte s).toNat }) ∧
    (∀ j : Fin 16, s.valid = true → step { s with host := .read (.chain j) :: rest } =
      .next { s with host := rest, hostData := some (byteAt s.chain j).toNat }) ∧
    (∀ j : Fin 240, s.valid = true → j.val < 16 * (nrOf s.variant + 1) →
      step { s with host := .read (.rks j) :: rest } =
        .next { s with host := rest, hostData := some (s.rks[j]).toNat }) ∧
    step { s with host := .read .keyLen :: rest } = .next { s with host := rest, hostData := some s.keyLen.toNat } ∧
    step { s with host := .read .ivLen :: rest } = .next { s with host := rest, hostData := some s.ivLen.toNat } ∧
    step { s with host := .read .bufAddr :: rest } = .next { s with host := rest, hostData := some s.bufAddr } ∧
    step { s with host := .read .bufLen :: rest } = .next { s with host := rest, hostData := some s.bufLen } ∧
    (∀ j : Fin 32, step { s with host := .read (.keyIn j) :: rest } =
      .next { s with host := rest, hostData := some (s.keyIn[j]).toNat }) ∧
    (∀ j : Fin 16, step { s with host := .read (.ivIn j) :: rest } =
      .next { s with host := rest, hostData := some (s.ivIn[j]).toNat })

/-- U2, U3, U4, U13 (log 9): a host read of a register without a specified value still completes, and changes nothing but
what the host got (and the count of draws). Of `CTX_CFG` without a context the specified part holds (R11, U12): `VALID`,
bit 0, reads 0 and bits 7:5 read 0, so the value is an even number below 32. -/
def Obligations.OpenRegisterReadCompletes : Prop :=
  (∀ (s : State) (r : HostReg) (rest : List HostAction), BetweenCommands s →
    ∃ t, step { s with host := .read r :: rest } = .next t ∧
      t = { s with host := rest, hostData := t.hostData, draws := t.draws }) ∧
  (∀ (s : State) (rest : List HostAction), BetweenCommands s → s.valid = false →
    ∃ t v, step { s with host := .read .ctxCfg :: rest } = .next t ∧
      t.hostData = some v ∧ v % 2 = 0 ∧ v < 32)

/-- R142 (d): a host write of an operand register stores the value (within the register's width, log 17), marks that
register or byte as written and no other (log 2), and changes nothing else. -/
def Obligations.OperandWriteStoresTheValue : Prop :=
  ∀ (s : State) (v : Nat) (rest : List HostAction), BetweenCommands s →
    (∃ t, step { s with host := .write .keyLen v :: rest } = .next t ∧
      t = { s with host := rest, keyLen := BitVec.ofNat 8 v, written := t.written } ∧
      t.written = { s.written with keyLen := true }) ∧
    (∃ t, step { s with host := .write .ivLen v :: rest } = .next t ∧
      t = { s with host := rest, ivLen := BitVec.ofNat 8 v, written := t.written } ∧
      t.written = { s.written with ivLen := true }) ∧
    (∃ t, step { s with host := .write .bufAddr v :: rest } = .next t ∧
      t = { s with host := rest, bufAddr := v % 2 ^ s.platform.aw, written := t.written } ∧
      t.written = { s.written with bufAddr := true }) ∧
    (∃ t, step { s with host := .write .bufLen v :: rest } = .next t ∧
      t = { s with host := rest, bufLen := v % 2 ^ s.platform.aw, written := t.written } ∧
      t.written = { s.written with bufLen := true }) ∧
    (∀ j : Fin 32, ∃ t, step { s with host := .write (.keyIn j) v :: rest } = .next t ∧
      t = { s with host := rest, keyIn := t.keyIn, written := t.written } ∧
      t.written = { s.written with keyIn := t.written.keyIn } ∧
      ∀ k : Fin 32, t.keyIn[k] = (if k = j then BitVec.ofNat 8 v else s.keyIn[k]) ∧
        t.written.keyIn[k] = (if k = j then true else s.written.keyIn[k])) ∧
    (∀ j : Fin 16, ∃ t, step { s with host := .write (.ivIn j) v :: rest } = .next t ∧
      t = { s with host := rest, ivIn := t.ivIn, written := t.written } ∧
      t.written = { s.written with ivIn := t.written.ivIn } ∧
      ∀ k : Fin 16, t.ivIn[k] = (if k = j then BitVec.ofNat 8 v else s.ivIn[k]) ∧
        t.written.ivIn[k] = (if k = j then true else s.written.ivIn[k]))

/-- R142 (e), R25: host writes to STATUS, CTX_CFG, CHAIN and RKS are ignored. -/
def Obligations.ReadOnlyWritesAreIgnored : Prop :=
  ∀ (s : State) (r : HostReg) (v : Nat) (rest : List HostAction), BetweenCommands s →
    regNumber r ∈ [1, 2, 9, 10] →
    step { s with host := .write r v :: rest } = .next { s with host := rest }

/-- R180: the platform's reset leaves no context, no error and `BUSY` 0, and does not touch data memory between
commands; no operand is recorded as written any more (U1, log 2). -/
def Obligations.PlatformResetDropsTheContext : Prop :=
  ∀ (s : State) (rest : List HostAction), BetweenCommands s →
    ∃ t, step { s with host := .reset :: rest } = .next t ∧
      t.valid = false ∧ t.err = .ok ∧ t.busy = false ∧ t.uop = none ∧ t.mem = s.mem ∧ t.host = rest ∧
      t.platform = s.platform ∧ t.written = Written.nothing

/-! Invariants of every step. -/

/-- The plain data is well formed at reset. -/
def Obligations.ResetMeetsTheInvariants : Prop :=
  Inv State.reset ∧ BetweenCommands State.reset ∧ State.reset.valid = false

/-- `20_memory.md` R40, `10_state.md` R16, R17: every step keeps memory in its canonical form inside the address space, and
every numbered register in its range. -/
def Obligations.StepKeepsMemoryAndRanges : Prop :=
  ∀ s t : State, Inv s → step s = .next t → Inv t

/-- R12: in every step a valid context's schedule stays the expansion of a key of its Variant's length. -/
def Obligations.StepKeepsTheSchedule : Prop :=
  ∀ s t : State, ScheduleInv s → step s = .next t → ScheduleInv t

/-- R14, R22: every step from between two commands ends between two commands: `BUSY` reads 0 and the sequencer is idle in
every state the untimed model shows. -/
def Obligations.StepEndsBetweenCommands : Prop :=
  ∀ s t : State, BetweenCommands s → step s = .next t → BetweenCommands t
end

