-- ==== Sys2Proof/Laws/Ops.lean ====
section
/-! SUPPORT. What the shared operations over memory and registers do. -/

namespace Sys2Proof.Machine

/-! Data memory. -/

theorem readByte_dropAddr (m : List Host.Cell) (a x : Nat) :
    readByte (dropAddr m a) x = if x = a then Config.unlistedByte else readByte m x := by
  induction m with
  | nil => simp [dropAddr, readByte]
  | cons c m ih =>
    simp only [dropAddr, List.filter_cons] at ih ⊢
    by_cases hc : c.1 = a
    · by_cases hx : x = a
      · simp_all
      · have : c.1 ≠ x := by omega
        simp_all [readByte]
    · simp only [bne_iff_ne, ne_eq, hc, not_false_eq_true, ↓reduceIte, readByte, ih]
      split <;> simp_all

theorem readByte_listAddr (m : List Host.Cell) (a x : Nat) (b : Byte) (h : ∀ c ∈ m, c.1 ≠ a) :
    readByte (listAddr a b m) x = if x = a then b else readByte m x := by
  induction m with
  | nil => simp [listAddr, readByte, eq_comm]
  | cons c m ih =>
    simp only [List.mem_cons, forall_eq_or_imp] at h
    simp only [listAddr]
    split
    · rw [readByte]
      by_cases hx : x = a
      · simp [hx]
      · rw [if_neg (Ne.symm hx), if_neg hx]
    · simp only [readByte, ih h.2]; split <;> simp_all

/-- A read after a write to the same place gives the value written, and a write leaves every other place alone (R48). -/
theorem readByte_writeByte (m : List Host.Cell) (a x : Nat) (b : Byte) :
    readByte (writeByte m a b) x = if x = a then b else readByte m x := by
  unfold writeByte
  split
  · rw [readByte_dropAddr]; split <;> simp_all
  · rw [readByte_listAddr _ _ _ _ (by simp [dropAddr]), readByte_dropAddr]; split <;> simp_all

theorem mem_dropAddr {m : List Host.Cell} {a : Nat} {c : Host.Cell} :
    c ∈ dropAddr m a ↔ c ∈ m ∧ c.1 ≠ a := by simp [dropAddr]

theorem mem_listAddr {m : List Host.Cell} {a : Nat} {b : Byte} {c : Host.Cell} :
    c ∈ listAddr a b m ↔ c = (a, b) ∨ c ∈ m := by
  induction m with
  | nil => simp [listAddr]
  | cons d m ih => simp only [listAddr]; split <;> simp_all [or_left_comm]

theorem pairwise_listAddr {m : List Host.Cell} (a : Nat) (b : Byte)
    (h : m.Pairwise fun c d => c.1 < d.1) (ha : ∀ c ∈ m, c.1 ≠ a) :
    (listAddr a b m).Pairwise fun c d => c.1 < d.1 := by
  induction m with
  | nil => simp [listAddr]
  | cons c m ih =>
    simp only [List.pairwise_cons, List.mem_cons, forall_eq_or_imp] at h ha
    simp only [listAddr]
    split
    · next hac =>
      refine List.pairwise_cons.2 ⟨?_, List.pairwise_cons.2 h⟩
      simp only [List.mem_cons, forall_eq_or_imp]
      exact ⟨hac, fun d hd => by have := h.1 d hd; omega⟩
    · next hac =>
      refine List.pairwise_cons.2 ⟨fun d hd => ?_, ih h.2 ha.2⟩
      rcases mem_listAddr.1 hd with rfl | hd
      · have := ha.1; simp only; omega
      · exact h.1 d hd

/-- A write keeps the canonical form. -/
theorem memWf_writeByte {m : List Host.Cell} (a : Nat) (b : Byte) (h : MemWf m) : MemWf (writeByte m a b) := by
  have hdrop : (dropAddr m a).Pairwise fun c d => c.1 < d.1 := h.1.filter _
  unfold writeByte
  split
  · exact ⟨hdrop, fun c hc => h.2 c (mem_dropAddr.1 hc).1⟩
  · next hb =>
    refine ⟨pairwise_listAddr a b hdrop (fun c hc => (mem_dropAddr.1 hc).2), fun c hc => ?_⟩
    rcases mem_listAddr.1 hc with rfl | hc
    · exact hb
    · exact h.2 c (mem_dropAddr.1 hc).1

/-- A write lists no address but the written one that was not listed before. -/
theorem mem_writeByte {m : List Host.Cell} {a : Nat} {b : Byte} {c : Host.Cell} (h : c ∈ writeByte m a b) :
    c.1 = a ∨ c ∈ m := by
  unfold writeByte at h
  split at h
  · exact .inr (mem_dropAddr.1 h).1
  · rcases mem_listAddr.1 h with rfl | h
    · exact .inl rfl
    · exact .inr (mem_dropAddr.1 h).1

/-- Two memories in canonical form that read alike everywhere are the same memory. -/
theorem memWf_ext {m n : List Host.Cell} (hm : MemWf m) (hn : MemWf n)
    (h : ∀ a, readByte m a = readByte n a) : m = n := by
  have hread : ∀ {l : List Host.Cell}, MemWf l → ∀ c, c ∈ l ↔ readByte l c.1 = c.2 ∧ c.2 ≠ Config.unlistedByte := by
    intro l
    induction l with
    | nil => intro _ c; simpa [readByte] using fun h => h.symm
    | cons d l ih =>
      intro hl c
      obtain ⟨⟨hd, hp⟩, hne⟩ := And.imp_left List.pairwise_cons.1 hl
      have ih := ih ⟨hp, fun c hc => hne c (by simp [hc])⟩ c
      simp only [List.mem_cons, readByte]
      split
      · next hdc =>
        constructor
        · rintro (rfl | hc)
          · exact ⟨rfl, hne _ (by simp)⟩
          · exact absurd (hd c hc) (by omega)
        · rintro ⟨h1, -⟩
          exact .inl (Prod.ext hdc.symm h1.symm)
      · next hdc =>
        rw [← ih]
        exact ⟨fun h => h.resolve_left (by rintro rfl; exact hdc rfl), .inr⟩
  have hperm : ∀ {l : List Host.Cell}, MemWf l → l.Nodup := fun hl =>
    hl.1.imp (fun hlt heq => by simp [heq] at hlt)
  have : m.Perm n := (List.perm_ext_iff_of_nodup (hperm hm) (hperm hn)).2 fun c => by
    rw [hread hm c, hread hn c, h]
  exact this.eq_of_pairwise (fun a b _ _ hab hba => absurd hab (by omega)) hm.1 hn.1

/-! Runs of bytes. -/

theorem readByte_memWrite (bs : List Byte) (m : List Host.Cell) (a x : Nat) :
    readByte (memWrite m a bs) x = if a ≤ x ∧ x < a + bs.length then bs.getD (x - a) 0 else readByte m x := by
  induction bs generalizing m a with
  | nil => simp [memWrite]
  | cons b bs ih =>
    simp only [memWrite, ih, readByte_writeByte, List.length_cons]
    by_cases hx : x = a
    · subst hx; simp
    · by_cases hin : a + 1 ≤ x ∧ x < a + 1 + bs.length
      · rw [if_pos hin, if_pos (by omega)]
        obtain ⟨k, hk⟩ : ∃ k, x - a = k + 1 := ⟨x - a - 1, by omega⟩
        rw [hk, show x - (a + 1) = k by omega]; simp
      · rw [if_neg hin, if_neg hx, if_neg (by omega)]

theorem memWf_memWrite (bs : List Byte) {m : List Host.Cell} (a : Nat) (h : MemWf m) : MemWf (memWrite m a bs) := by
  induction bs generalizing m a with
  | nil => exact h
  | cons b bs ih => exact ih _ (memWf_writeByte a b h)

theorem mem_memWrite {bs : List Byte} {m : List Host.Cell} {a : Nat} {c : Host.Cell} (h : c ∈ memWrite m a bs) :
    (a ≤ c.1 ∧ c.1 < a + bs.length) ∨ c ∈ m := by
  induction bs generalizing m a with
  | nil => exact .inr h
  | cons b bs ih =>
    rcases ih h with hin | hm
    · left; simp only [List.length_cons]; omega
    · rcases mem_writeByte hm with hc | hm
      · left; simp only [List.length_cons]; omega
      · exact .inr hm

@[simp] theorem length_memRead (m : List Host.Cell) (a n : Nat) : (memRead m a n).length = n := by
  induction n generalizing a with
  | zero => rfl
  | succ n ih => simp [memRead, ih]

theorem getElem?_memRead (m : List Host.Cell) (a n k : Nat) (h : k < n) :
    (memRead m a n)[k]? = some (readByte m (a + k)) := by
  induction n generalizing a k with
  | zero => omega
  | succ n ih =>
    cases k with
    | zero => simp [memRead]
    | succ k => simp [memRead, ih (a + 1) k (by omega), Nat.add_assoc, Nat.add_comm 1 k]

/-! Blocks. -/

@[simp] theorem getElem_readBlock (m : List Host.Cell) (a j : Nat) (h : j < 16) :
    (readBlock m a)[j] = readByte m (a + j) := by simp [readBlock]

theorem readByte_writeBlock (m : List Host.Cell) (a x : Nat) (b : Block) :
    readByte (writeBlock m a b) x = if a ≤ x ∧ x < a + 16 then byteAt b (x - a) else readByte m x := by
  unfold writeBlock
  rw [readByte_memWrite]
  simp only [Vector.length_toList]
  split
  · next h =>
    have : x - a < 16 := by omega
    simp [byteAt, List.getD, this]
  · rfl

theorem byteAt_eq {b : Block} {j : Nat} (h : j < 16) : byteAt b j = b[j] := by simp [byteAt, h]

/-- A block is its 16 bytes. -/
theorem block_ext {a b : Block} (h : ∀ j, j < 16 → byteAt a j = byteAt b j) : a = b :=
  Vector.ext fun j hj => by have := h j hj; rwa [byteAt_eq hj, byteAt_eq hj] at this

/-- The block stored is the block read back. -/
theorem readBlock_writeBlock (m : List Host.Cell) (a : Nat) (b : Block) : readBlock (writeBlock m a b) a = b := by
  refine Vector.ext fun j hj => ?_
  rw [getElem_readBlock _ _ _ hj, readByte_writeBlock, if_pos (by omega), byteAt_eq (by omega)]
  congr 1; omega

/-- A block elsewhere is untouched. -/
theorem readBlock_writeBlock_of_disjoint (m : List Host.Cell) (a x : Nat) (b : Block) (h : x + 16 ≤ a ∨ a + 16 ≤ x) :
    readBlock (writeBlock m a b) x = readBlock m x := by
  refine Vector.ext fun j hj => ?_
  rw [getElem_readBlock _ _ _ hj, readByte_writeBlock, if_neg (by omega), getElem_readBlock _ _ _ hj]

theorem memWf_writeBlock {m : List Host.Cell} (a : Nat) (b : Block) (h : MemWf m) : MemWf (writeBlock m a b) := by
  unfold writeBlock; exact memWf_memWrite _ a h

theorem mem_writeBlock {m : List Host.Cell} {a : Nat} {b : Block} {c : Host.Cell} (h : c ∈ writeBlock m a b) :
    (a ≤ c.1 ∧ c.1 < a + 16) ∨ c ∈ m := by
  unfold writeBlock at h; simpa using mem_memWrite h

/-! Buffers. -/

/-- `MEM_OK(a, n)` is plain memory at every one of the `n` addresses. -/
theorem memOk_iff (p : Platform) (a n : Nat) : memOk p a n = true ↔ ∀ k, k < n → plainByte p (a + k) = true := by
  induction n generalizing a with
  | zero => simp [memOk]
  | succ n ih =>
    simp only [memOk, Bool.and_eq_true, ih]
    constructor
    · rintro ⟨h0, hn⟩ k hk
      cases k with
      | zero => exact h0
      | succ k => simpa [Nat.add_assoc, Nat.add_comm 1 k] using hn k (by omega)
    · intro h
      exact ⟨h 0 (by omega), fun k hk => by simpa [Nat.add_assoc, Nat.add_comm 1 k] using h (k + 1) (by omega)⟩

/-- A legal buffer is empty, or ends inside the address space and is plain memory throughout (R47). -/
theorem bufferOk_iff (s : State) : bufferOk s = true ↔ s.bufLen = 0 ∨
    (s.bufAddr + s.bufLen ≤ 2 ^ s.platform.aw ∧ memOk s.platform s.bufAddr s.bufLen = true) := by
  simp [bufferOk]

/-! Commands. -/

/-- Everything a data command can do (R120): one of its two errors, the refusal of an illegal buffer, or its body. -/
theorem dataCommand_cases (wholeBlocks : Bool) (body : State → State) (s : State) :
    (s.valid = false ∧ dataCommand wholeBlocks body s = raise .noContext s) ∨
    (s.valid = true ∧ wholeBlocks = true ∧ s.bufLen % 16 ≠ 0 ∧ dataCommand wholeBlocks body s = raise .bufLen s) ∨
    (s.valid = true ∧ (wholeBlocks = true → s.bufLen % 16 = 0) ∧ bufferOk s = false ∧
      dataCommand wholeBlocks body s = .refused .bufferNotMemory) ∨
    (s.valid = true ∧ (wholeBlocks = true → s.bufLen % 16 = 0) ∧ bufferOk s = true ∧
      dataCommand wholeBlocks body s = .next (succeed (body s))) := by
  unfold dataCommand
  cases hv : s.valid
  · simp
  · by_cases hl : wholeBlocks = true ∧ s.bufLen % 16 ≠ 0
    · simp [hl]
    · have hl' : wholeBlocks = true → s.bufLen % 16 = 0 := fun hw => not_not.1 fun hn => hl ⟨hw, hn⟩
      cases hb : bufferOk s <;> simp_all

theorem dataCommand_ready {wholeBlocks : Bool} {body : State → State} {s : State} (hv : s.valid = true)
    (hl : wholeBlocks = true → s.bufLen % 16 = 0) (hb : bufferOk s = true) :
    dataCommand wholeBlocks body s = .next (succeed (body s)) := by
  rcases dataCommand_cases wholeBlocks body s with h | h | h | h <;> simp_all

/-- What an outcome of NEW can be (R140). -/
theorem execNew_cases (vc mc : BitVec 2) (s : State) :
    ((variantOfCode vc = none ∨ modeOfCode mc = none) ∧ execNew vc mc s = raise .illegalCmd s) ∨
    ∃ v m, variantOfCode vc = some v ∧ modeOfCode mc = some m ∧
      ((s.keyLen.toNat ≠ 4 * nkOf v ∧ execNew vc mc s = raise .keyLen s) ∨
       (s.keyLen.toNat = 4 * nkOf v ∧ s.ivLen.toNat ≠ 16 ∧ execNew vc mc s = raise .ivLen s) ∨
       (s.keyLen.toNat = 4 * nkOf v ∧ s.ivLen.toNat = 16 ∧ execNew vc mc s = .next (buildContext v m s))) := by
  unfold execNew
  cases hv : variantOfCode vc with
  | none => simp
  | some v =>
    cases hm : modeOfCode mc with
    | none => simp
    | some m => by_cases hk : s.keyLen.toNat = 4 * nkOf v <;> by_cases hi : s.ivLen.toNat = 16 <;> simp [hk, hi]

/-- What an outcome of SET_IV can be (R141). -/
theorem execSetIv_cases (s : State) :
    (s.valid = false ∧ execSetIv s = raise .noContext s) ∨
    (s.valid = true ∧ s.ivLen.toNat ≠ 16 ∧ execSetIv s = raise .ivLen s) ∨
    (s.valid = true ∧ s.ivLen.toNat = 16 ∧ execSetIv s = .next (succeed { s with chain := s.ivIn })) := by
  unfold execSetIv
  cases hv : s.valid <;> by_cases hi : s.ivLen.toNat = 16 <;> simp [hi]

/-- ADDROUNDKEY gives a next state, with a free value beyond the schedule (R107, U3). -/
theorem execAddRoundKey_cases (s : State) :
    (s.rnd ≤ nrOf s.variant ∧
      execAddRoundKey s = .next (onState (addRoundKey s.rks s.rnd) s)) ∨
    (nrOf s.variant < s.rnd ∧
      execAddRoundKey s = .next { onState (xorBlock (freeBlock s.draws 0)) s with draws := s.draws + 1 }) := by
  unfold execAddRoundKey
  by_cases h : s.rnd ≤ nrOf s.variant
  · simp [h]
  · simp [h, Nat.lt_of_not_le h]

end Sys2Proof.Machine
end

