-- ==== Sys2Proof/Laws/State.lean ====
section
/-! SUPPORT. What each named update of the state does to each field. -/

namespace Sys2Proof.Machine

/-! Successful completion (`succeed`). -/

@[simp] theorem succeed_valid (s : State) : (succeed s).valid = s.valid := by simp only [succeed]
@[simp] theorem succeed_variant (s : State) : (succeed s).variant = s.variant := by simp only [succeed]
@[simp] theorem succeed_mode (s : State) : (succeed s).mode = s.mode := by simp only [succeed]
@[simp] theorem succeed_rks (s : State) : (succeed s).rks = s.rks := by simp only [succeed]
@[simp] theorem succeed_chain (s : State) : (succeed s).chain = s.chain := by simp only [succeed]
@[simp] theorem succeed_err (s : State) : (succeed s).err = .ok := by simp only [succeed]
@[simp] theorem succeed_busy (s : State) : (succeed s).busy = false := by simp only [succeed]
@[simp] theorem succeed_keyIn (s : State) : (succeed s).keyIn = s.keyIn := by simp only [succeed]
@[simp] theorem succeed_keyLen (s : State) : (succeed s).keyLen = s.keyLen := by simp only [succeed]
@[simp] theorem succeed_ivIn (s : State) : (succeed s).ivIn = s.ivIn := by simp only [succeed]
@[simp] theorem succeed_ivLen (s : State) : (succeed s).ivLen = s.ivLen := by simp only [succeed]
@[simp] theorem succeed_bufAddr (s : State) : (succeed s).bufAddr = s.bufAddr := by simp only [succeed]
@[simp] theorem succeed_bufLen (s : State) : (succeed s).bufLen = s.bufLen := by simp only [succeed]
@[simp] theorem succeed_st (s : State) : (succeed s).st = s.st := by simp only [succeed]
@[simp] theorem succeed_ks (s : State) : (succeed s).ks = s.ks := by simp only [succeed]
@[simp] theorem succeed_nextIv (s : State) : (succeed s).nextIv = s.nextIv := by simp only [succeed]
@[simp] theorem succeed_ch (s : State) : (succeed s).ch = s.ch := by simp only [succeed]
@[simp] theorem succeed_rnd (s : State) : (succeed s).rnd = s.rnd := by simp only [succeed]
@[simp] theorem succeed_off (s : State) : (succeed s).off = s.off := by simp only [succeed]
@[simp] theorem succeed_ki (s : State) : (succeed s).ki = s.ki := by simp only [succeed]
@[simp] theorem succeed_uop (s : State) : (succeed s).uop = s.uop := by simp only [succeed]
@[simp] theorem succeed_mem (s : State) : (succeed s).mem = s.mem := by simp only [succeed]
@[simp] theorem succeed_platform (s : State) : (succeed s).platform = s.platform := by simp only [succeed]
@[simp] theorem succeed_host (s : State) : (succeed s).host = s.host := by simp only [succeed]
@[simp] theorem succeed_hostData (s : State) : (succeed s).hostData = s.hostData := by simp only [succeed]
@[simp] theorem succeed_written (s : State) : (succeed s).written = s.written := by simp only [succeed]
@[simp] theorem succeed_draws (s : State) : (succeed s).draws = s.draws := by simp only [succeed]

/-! The scratch every data command leaves open (`releaseScratch`). -/

@[simp] theorem releaseScratch_valid (s : State) : (releaseScratch s).valid = s.valid := by
  simp only [releaseScratch]
@[simp] theorem releaseScratch_variant (s : State) : (releaseScratch s).variant = s.variant := by
  simp only [releaseScratch]
@[simp] theorem releaseScratch_mode (s : State) : (releaseScratch s).mode = s.mode := by simp only [releaseScratch]
@[simp] theorem releaseScratch_rks (s : State) : (releaseScratch s).rks = s.rks := by simp only [releaseScratch]
@[simp] theorem releaseScratch_chain (s : State) : (releaseScratch s).chain = s.chain := by
  simp only [releaseScratch]
@[simp] theorem releaseScratch_err (s : State) : (releaseScratch s).err = s.err := by simp only [releaseScratch]
@[simp] theorem releaseScratch_busy (s : State) : (releaseScratch s).busy = s.busy := by simp only [releaseScratch]
@[simp] theorem releaseScratch_keyIn (s : State) : (releaseScratch s).keyIn = s.keyIn := by
  simp only [releaseScratch]
@[simp] theorem releaseScratch_keyLen (s : State) : (releaseScratch s).keyLen = s.keyLen := by
  simp only [releaseScratch]
@[simp] theorem releaseScratch_ivIn (s : State) : (releaseScratch s).ivIn = s.ivIn := by simp only [releaseScratch]
@[simp] theorem releaseScratch_ivLen (s : State) : (releaseScratch s).ivLen = s.ivLen := by
  simp only [releaseScratch]
@[simp] theorem releaseScratch_bufAddr (s : State) : (releaseScratch s).bufAddr = s.bufAddr := by
  simp only [releaseScratch]
@[simp] theorem releaseScratch_bufLen (s : State) : (releaseScratch s).bufLen = s.bufLen := by
  simp only [releaseScratch]
@[simp] theorem releaseScratch_st (s : State) : (releaseScratch s).st = freeBlock s.draws 0 := by
  simp only [releaseScratch]
@[simp] theorem releaseScratch_ks (s : State) : (releaseScratch s).ks = s.ks := by simp only [releaseScratch]
@[simp] theorem releaseScratch_nextIv (s : State) : (releaseScratch s).nextIv = s.nextIv := by
  simp only [releaseScratch]
@[simp] theorem releaseScratch_ch (s : State) : (releaseScratch s).ch = s.ch := by simp only [releaseScratch]
@[simp] theorem releaseScratch_rnd (s : State) : (releaseScratch s).rnd = Config.freeNat s.draws 0 % 15 := by
  simp only [releaseScratch]
@[simp] theorem releaseScratch_off (s : State) : (releaseScratch s).off = Config.freeNat s.draws 1 % 2 ^ s.platform.aw := by
  simp only [releaseScratch]
@[simp] theorem releaseScratch_ki (s : State) : (releaseScratch s).ki = s.ki := by simp only [releaseScratch]
@[simp] theorem releaseScratch_uop (s : State) : (releaseScratch s).uop = s.uop := by simp only [releaseScratch]
@[simp] theorem releaseScratch_mem (s : State) : (releaseScratch s).mem = s.mem := by simp only [releaseScratch]
@[simp] theorem releaseScratch_platform (s : State) : (releaseScratch s).platform = s.platform := by
  simp only [releaseScratch]
@[simp] theorem releaseScratch_host (s : State) : (releaseScratch s).host = s.host := by simp only [releaseScratch]
@[simp] theorem releaseScratch_hostData (s : State) : (releaseScratch s).hostData = s.hostData := by
  simp only [releaseScratch]
@[simp] theorem releaseScratch_written (s : State) : (releaseScratch s).written = s.written := by
  simp only [releaseScratch]
@[simp] theorem releaseScratch_draws (s : State) : (releaseScratch s).draws = s.draws + 1 := by
  simp only [releaseScratch]

/-! The scratch CBC_ENCRYPT leaves open (`releaseCh`). -/

@[simp] theorem releaseCh_valid (s : State) : (releaseCh s).valid = s.valid := by simp only [releaseCh]
@[simp] theorem releaseCh_variant (s : State) : (releaseCh s).variant = s.variant := by simp only [releaseCh]
@[simp] theorem releaseCh_mode (s : State) : (releaseCh s).mode = s.mode := by simp only [releaseCh]
@[simp] theorem releaseCh_rks (s : State) : (releaseCh s).rks = s.rks := by simp only [releaseCh]
@[simp] theorem releaseCh_chain (s : State) : (releaseCh s).chain = s.chain := by simp only [releaseCh]
@[simp] theorem releaseCh_err (s : State) : (releaseCh s).err = s.err := by simp only [releaseCh]
@[simp] theorem releaseCh_busy (s : State) : (releaseCh s).busy = s.busy := by simp only [releaseCh]
@[simp] theorem releaseCh_keyIn (s : State) : (releaseCh s).keyIn = s.keyIn := by simp only [releaseCh]
@[simp] theorem releaseCh_keyLen (s : State) : (releaseCh s).keyLen = s.keyLen := by simp only [releaseCh]
@[simp] theorem releaseCh_ivIn (s : State) : (releaseCh s).ivIn = s.ivIn := by simp only [releaseCh]
@[simp] theorem releaseCh_ivLen (s : State) : (releaseCh s).ivLen = s.ivLen := by simp only [releaseCh]
@[simp] theorem releaseCh_bufAddr (s : State) : (releaseCh s).bufAddr = s.bufAddr := by simp only [releaseCh]
@[simp] theorem releaseCh_bufLen (s : State) : (releaseCh s).bufLen = s.bufLen := by simp only [releaseCh]
@[simp] theorem releaseCh_st (s : State) : (releaseCh s).st = s.st := by simp only [releaseCh]
@[simp] theorem releaseCh_ks (s : State) : (releaseCh s).ks = s.ks := by simp only [releaseCh]
@[simp] theorem releaseCh_nextIv (s : State) : (releaseCh s).nextIv = s.nextIv := by simp only [releaseCh]
@[simp] theorem releaseCh_ch (s : State) : (releaseCh s).ch = freeBlock s.draws 0 := by simp only [releaseCh]
@[simp] theorem releaseCh_rnd (s : State) : (releaseCh s).rnd = s.rnd := by simp only [releaseCh]
@[simp] theorem releaseCh_off (s : State) : (releaseCh s).off = s.off := by simp only [releaseCh]
@[simp] theorem releaseCh_ki (s : State) : (releaseCh s).ki = s.ki := by simp only [releaseCh]
@[simp] theorem releaseCh_uop (s : State) : (releaseCh s).uop = s.uop := by simp only [releaseCh]
@[simp] theorem releaseCh_mem (s : State) : (releaseCh s).mem = s.mem := by simp only [releaseCh]
@[simp] theorem releaseCh_platform (s : State) : (releaseCh s).platform = s.platform := by simp only [releaseCh]
@[simp] theorem releaseCh_host (s : State) : (releaseCh s).host = s.host := by simp only [releaseCh]
@[simp] theorem releaseCh_hostData (s : State) : (releaseCh s).hostData = s.hostData := by simp only [releaseCh]
@[simp] theorem releaseCh_written (s : State) : (releaseCh s).written = s.written := by simp only [releaseCh]
@[simp] theorem releaseCh_draws (s : State) : (releaseCh s).draws = s.draws + 1 := by simp only [releaseCh]

/-! The scratch CBC_DECRYPT leaves open (`releaseNextIv`). -/

@[simp] theorem releaseNextIv_valid (s : State) : (releaseNextIv s).valid = s.valid := by simp only [releaseNextIv]
@[simp] theorem releaseNextIv_variant (s : State) : (releaseNextIv s).variant = s.variant := by
  simp only [releaseNextIv]
@[simp] theorem releaseNextIv_mode (s : State) : (releaseNextIv s).mode = s.mode := by simp only [releaseNextIv]
@[simp] theorem releaseNextIv_rks (s : State) : (releaseNextIv s).rks = s.rks := by simp only [releaseNextIv]
@[simp] theorem releaseNextIv_chain (s : State) : (releaseNextIv s).chain = s.chain := by simp only [releaseNextIv]
@[simp] theorem releaseNextIv_err (s : State) : (releaseNextIv s).err = s.err := by simp only [releaseNextIv]
@[simp] theorem releaseNextIv_busy (s : State) : (releaseNextIv s).busy = s.busy := by simp only [releaseNextIv]
@[simp] theorem releaseNextIv_keyIn (s : State) : (releaseNextIv s).keyIn = s.keyIn := by simp only [releaseNextIv]
@[simp] theorem releaseNextIv_keyLen (s : State) : (releaseNextIv s).keyLen = s.keyLen := by
  simp only [releaseNextIv]
@[simp] theorem releaseNextIv_ivIn (s : State) : (releaseNextIv s).ivIn = s.ivIn := by simp only [releaseNextIv]
@[simp] theorem releaseNextIv_ivLen (s : State) : (releaseNextIv s).ivLen = s.ivLen := by simp only [releaseNextIv]
@[simp] theorem releaseNextIv_bufAddr (s : State) : (releaseNextIv s).bufAddr = s.bufAddr := by
  simp only [releaseNextIv]
@[simp] theorem releaseNextIv_bufLen (s : State) : (releaseNextIv s).bufLen = s.bufLen := by
  simp only [releaseNextIv]
@[simp] theorem releaseNextIv_st (s : State) : (releaseNextIv s).st = s.st := by simp only [releaseNextIv]
@[simp] theorem releaseNextIv_ks (s : State) : (releaseNextIv s).ks = s.ks := by simp only [releaseNextIv]
@[simp] theorem releaseNextIv_nextIv (s : State) : (releaseNextIv s).nextIv = freeBlock s.draws 0 := by
  simp only [releaseNextIv]
@[simp] theorem releaseNextIv_ch (s : State) : (releaseNextIv s).ch = s.ch := by simp only [releaseNextIv]
@[simp] theorem releaseNextIv_rnd (s : State) : (releaseNextIv s).rnd = s.rnd := by simp only [releaseNextIv]
@[simp] theorem releaseNextIv_off (s : State) : (releaseNextIv s).off = s.off := by simp only [releaseNextIv]
@[simp] theorem releaseNextIv_ki (s : State) : (releaseNextIv s).ki = s.ki := by simp only [releaseNextIv]
@[simp] theorem releaseNextIv_uop (s : State) : (releaseNextIv s).uop = s.uop := by simp only [releaseNextIv]
@[simp] theorem releaseNextIv_mem (s : State) : (releaseNextIv s).mem = s.mem := by simp only [releaseNextIv]
@[simp] theorem releaseNextIv_platform (s : State) : (releaseNextIv s).platform = s.platform := by
  simp only [releaseNextIv]
@[simp] theorem releaseNextIv_host (s : State) : (releaseNextIv s).host = s.host := by simp only [releaseNextIv]
@[simp] theorem releaseNextIv_hostData (s : State) : (releaseNextIv s).hostData = s.hostData := by
  simp only [releaseNextIv]
@[simp] theorem releaseNextIv_written (s : State) : (releaseNextIv s).written = s.written := by
  simp only [releaseNextIv]
@[simp] theorem releaseNextIv_draws (s : State) : (releaseNextIv s).draws = s.draws + 1 := by
  simp only [releaseNextIv]

/-! The scratch CTR_XCRYPT leaves open (`releaseKs`). -/

@[simp] theorem releaseKs_valid (s : State) : (releaseKs s).valid = s.valid := by simp only [releaseKs]
@[simp] theorem releaseKs_variant (s : State) : (releaseKs s).variant = s.variant := by simp only [releaseKs]
@[simp] theorem releaseKs_mode (s : State) : (releaseKs s).mode = s.mode := by simp only [releaseKs]
@[simp] theorem releaseKs_rks (s : State) : (releaseKs s).rks = s.rks := by simp only [releaseKs]
@[simp] theorem releaseKs_chain (s : State) : (releaseKs s).chain = s.chain := by simp only [releaseKs]
@[simp] theorem releaseKs_err (s : State) : (releaseKs s).err = s.err := by simp only [releaseKs]
@[simp] theorem releaseKs_busy (s : State) : (releaseKs s).busy = s.busy := by simp only [releaseKs]
@[simp] theorem releaseKs_keyIn (s : State) : (releaseKs s).keyIn = s.keyIn := by simp only [releaseKs]
@[simp] theorem releaseKs_keyLen (s : State) : (releaseKs s).keyLen = s.keyLen := by simp only [releaseKs]
@[simp] theorem releaseKs_ivIn (s : State) : (releaseKs s).ivIn = s.ivIn := by simp only [releaseKs]
@[simp] theorem releaseKs_ivLen (s : State) : (releaseKs s).ivLen = s.ivLen := by simp only [releaseKs]
@[simp] theorem releaseKs_bufAddr (s : State) : (releaseKs s).bufAddr = s.bufAddr := by simp only [releaseKs]
@[simp] theorem releaseKs_bufLen (s : State) : (releaseKs s).bufLen = s.bufLen := by simp only [releaseKs]
@[simp] theorem releaseKs_st (s : State) : (releaseKs s).st = s.st := by simp only [releaseKs]
@[simp] theorem releaseKs_ks (s : State) : (releaseKs s).ks = freeBlock s.draws 0 := by simp only [releaseKs]
@[simp] theorem releaseKs_nextIv (s : State) : (releaseKs s).nextIv = s.nextIv := by simp only [releaseKs]
@[simp] theorem releaseKs_ch (s : State) : (releaseKs s).ch = s.ch := by simp only [releaseKs]
@[simp] theorem releaseKs_rnd (s : State) : (releaseKs s).rnd = s.rnd := by simp only [releaseKs]
@[simp] theorem releaseKs_off (s : State) : (releaseKs s).off = s.off := by simp only [releaseKs]
@[simp] theorem releaseKs_ki (s : State) : (releaseKs s).ki = s.ki := by simp only [releaseKs]
@[simp] theorem releaseKs_uop (s : State) : (releaseKs s).uop = s.uop := by simp only [releaseKs]
@[simp] theorem releaseKs_mem (s : State) : (releaseKs s).mem = s.mem := by simp only [releaseKs]
@[simp] theorem releaseKs_platform (s : State) : (releaseKs s).platform = s.platform := by simp only [releaseKs]
@[simp] theorem releaseKs_host (s : State) : (releaseKs s).host = s.host := by simp only [releaseKs]
@[simp] theorem releaseKs_hostData (s : State) : (releaseKs s).hostData = s.hostData := by simp only [releaseKs]
@[simp] theorem releaseKs_written (s : State) : (releaseKs s).written = s.written := by simp only [releaseKs]
@[simp] theorem releaseKs_draws (s : State) : (releaseKs s).draws = s.draws + 1 := by simp only [releaseKs]

/-! The scratch NEW leaves open (`releaseKi`). -/

@[simp] theorem releaseKi_valid (s : State) : (releaseKi s).valid = s.valid := by simp only [releaseKi]
@[simp] theorem releaseKi_variant (s : State) : (releaseKi s).variant = s.variant := by simp only [releaseKi]
@[simp] theorem releaseKi_mode (s : State) : (releaseKi s).mode = s.mode := by simp only [releaseKi]
@[simp] theorem releaseKi_rks (s : State) : (releaseKi s).rks = s.rks := by simp only [releaseKi]
@[simp] theorem releaseKi_chain (s : State) : (releaseKi s).chain = s.chain := by simp only [releaseKi]
@[simp] theorem releaseKi_err (s : State) : (releaseKi s).err = s.err := by simp only [releaseKi]
@[simp] theorem releaseKi_busy (s : State) : (releaseKi s).busy = s.busy := by simp only [releaseKi]
@[simp] theorem releaseKi_keyIn (s : State) : (releaseKi s).keyIn = s.keyIn := by simp only [releaseKi]
@[simp] theorem releaseKi_keyLen (s : State) : (releaseKi s).keyLen = s.keyLen := by simp only [releaseKi]
@[simp] theorem releaseKi_ivIn (s : State) : (releaseKi s).ivIn = s.ivIn := by simp only [releaseKi]
@[simp] theorem releaseKi_ivLen (s : State) : (releaseKi s).ivLen = s.ivLen := by simp only [releaseKi]
@[simp] theorem releaseKi_bufAddr (s : State) : (releaseKi s).bufAddr = s.bufAddr := by simp only [releaseKi]
@[simp] theorem releaseKi_bufLen (s : State) : (releaseKi s).bufLen = s.bufLen := by simp only [releaseKi]
@[simp] theorem releaseKi_st (s : State) : (releaseKi s).st = s.st := by simp only [releaseKi]
@[simp] theorem releaseKi_ks (s : State) : (releaseKi s).ks = s.ks := by simp only [releaseKi]
@[simp] theorem releaseKi_nextIv (s : State) : (releaseKi s).nextIv = s.nextIv := by simp only [releaseKi]
@[simp] theorem releaseKi_ch (s : State) : (releaseKi s).ch = s.ch := by simp only [releaseKi]
@[simp] theorem releaseKi_rnd (s : State) : (releaseKi s).rnd = s.rnd := by simp only [releaseKi]
@[simp] theorem releaseKi_off (s : State) : (releaseKi s).off = s.off := by simp only [releaseKi]
@[simp] theorem releaseKi_ki (s : State) : (releaseKi s).ki = Config.freeNat s.draws 0 % 60 := by
  simp only [releaseKi]
@[simp] theorem releaseKi_uop (s : State) : (releaseKi s).uop = s.uop := by simp only [releaseKi]
@[simp] theorem releaseKi_mem (s : State) : (releaseKi s).mem = s.mem := by simp only [releaseKi]
@[simp] theorem releaseKi_platform (s : State) : (releaseKi s).platform = s.platform := by simp only [releaseKi]
@[simp] theorem releaseKi_host (s : State) : (releaseKi s).host = s.host := by simp only [releaseKi]
@[simp] theorem releaseKi_hostData (s : State) : (releaseKi s).hostData = s.hostData := by simp only [releaseKi]
@[simp] theorem releaseKi_written (s : State) : (releaseKi s).written = s.written := by simp only [releaseKi]
@[simp] theorem releaseKi_draws (s : State) : (releaseKi s).draws = s.draws + 1 := by simp only [releaseKi]

/-! A micro-operation on `STATE` (`onState`). -/

@[simp] theorem onState_valid (f : Block → Block) (s : State) : (onState f s).valid = s.valid := by
  simp only [onState]
@[simp] theorem onState_variant (f : Block → Block) (s : State) : (onState f s).variant = s.variant := by
  simp only [onState]
@[simp] theorem onState_mode (f : Block → Block) (s : State) : (onState f s).mode = s.mode := by simp only [onState]
@[simp] theorem onState_rks (f : Block → Block) (s : State) : (onState f s).rks = s.rks := by simp only [onState]
@[simp] theorem onState_chain (f : Block → Block) (s : State) : (onState f s).chain = s.chain := by
  simp only [onState]
@[simp] theorem onState_err (f : Block → Block) (s : State) : (onState f s).err = s.err := by simp only [onState]
@[simp] theorem onState_busy (f : Block → Block) (s : State) : (onState f s).busy = s.busy := by simp only [onState]
@[simp] theorem onState_keyIn (f : Block → Block) (s : State) : (onState f s).keyIn = s.keyIn := by
  simp only [onState]
@[simp] theorem onState_keyLen (f : Block → Block) (s : State) : (onState f s).keyLen = s.keyLen := by
  simp only [onState]
@[simp] theorem onState_ivIn (f : Block → Block) (s : State) : (onState f s).ivIn = s.ivIn := by simp only [onState]
@[simp] theorem onState_ivLen (f : Block → Block) (s : State) : (onState f s).ivLen = s.ivLen := by
  simp only [onState]
@[simp] theorem onState_bufAddr (f : Block → Block) (s : State) : (onState f s).bufAddr = s.bufAddr := by
  simp only [onState]
@[simp] theorem onState_bufLen (f : Block → Block) (s : State) : (onState f s).bufLen = s.bufLen := by
  simp only [onState]
@[simp] theorem onState_st (f : Block → Block) (s : State) : (onState f s).st = f s.st := by simp only [onState]
@[simp] theorem onState_ks (f : Block → Block) (s : State) : (onState f s).ks = s.ks := by simp only [onState]
@[simp] theorem onState_nextIv (f : Block → Block) (s : State) : (onState f s).nextIv = s.nextIv := by
  simp only [onState]
@[simp] theorem onState_ch (f : Block → Block) (s : State) : (onState f s).ch = s.ch := by simp only [onState]
@[simp] theorem onState_rnd (f : Block → Block) (s : State) : (onState f s).rnd = s.rnd := by simp only [onState]
@[simp] theorem onState_off (f : Block → Block) (s : State) : (onState f s).off = s.off := by simp only [onState]
@[simp] theorem onState_ki (f : Block → Block) (s : State) : (onState f s).ki = s.ki := by simp only [onState]
@[simp] theorem onState_uop (f : Block → Block) (s : State) : (onState f s).uop = s.uop := by simp only [onState]
@[simp] theorem onState_mem (f : Block → Block) (s : State) : (onState f s).mem = s.mem := by simp only [onState]
@[simp] theorem onState_platform (f : Block → Block) (s : State) : (onState f s).platform = s.platform := by
  simp only [onState]
@[simp] theorem onState_host (f : Block → Block) (s : State) : (onState f s).host = s.host := by simp only [onState]
@[simp] theorem onState_hostData (f : Block → Block) (s : State) : (onState f s).hostData = s.hostData := by
  simp only [onState]
@[simp] theorem onState_written (f : Block → Block) (s : State) : (onState f s).written = s.written := by
  simp only [onState]
@[simp] theorem onState_draws (f : Block → Block) (s : State) : (onState f s).draws = s.draws := by
  simp only [onState]

/-! `LoadBlock(OFF)` (`loadBlock`). -/

@[simp] theorem loadBlock_valid (s : State) : (loadBlock s).valid = s.valid := by simp only [loadBlock]
@[simp] theorem loadBlock_variant (s : State) : (loadBlock s).variant = s.variant := by simp only [loadBlock]
@[simp] theorem loadBlock_mode (s : State) : (loadBlock s).mode = s.mode := by simp only [loadBlock]
@[simp] theorem loadBlock_rks (s : State) : (loadBlock s).rks = s.rks := by simp only [loadBlock]
@[simp] theorem loadBlock_chain (s : State) : (loadBlock s).chain = s.chain := by simp only [loadBlock]
@[simp] theorem loadBlock_err (s : State) : (loadBlock s).err = s.err := by simp only [loadBlock]
@[simp] theorem loadBlock_busy (s : State) : (loadBlock s).busy = s.busy := by simp only [loadBlock]
@[simp] theorem loadBlock_keyIn (s : State) : (loadBlock s).keyIn = s.keyIn := by simp only [loadBlock]
@[simp] theorem loadBlock_keyLen (s : State) : (loadBlock s).keyLen = s.keyLen := by simp only [loadBlock]
@[simp] theorem loadBlock_ivIn (s : State) : (loadBlock s).ivIn = s.ivIn := by simp only [loadBlock]
@[simp] theorem loadBlock_ivLen (s : State) : (loadBlock s).ivLen = s.ivLen := by simp only [loadBlock]
@[simp] theorem loadBlock_bufAddr (s : State) : (loadBlock s).bufAddr = s.bufAddr := by simp only [loadBlock]
@[simp] theorem loadBlock_bufLen (s : State) : (loadBlock s).bufLen = s.bufLen := by simp only [loadBlock]
@[simp] theorem loadBlock_st (s : State) : (loadBlock s).st = readBlock s.mem (s.bufAddr + s.off) := by
  simp only [loadBlock]
@[simp] theorem loadBlock_ks (s : State) : (loadBlock s).ks = s.ks := by simp only [loadBlock]
@[simp] theorem loadBlock_nextIv (s : State) : (loadBlock s).nextIv = s.nextIv := by simp only [loadBlock]
@[simp] theorem loadBlock_ch (s : State) : (loadBlock s).ch = s.ch := by simp only [loadBlock]
@[simp] theorem loadBlock_rnd (s : State) : (loadBlock s).rnd = s.rnd := by simp only [loadBlock]
@[simp] theorem loadBlock_off (s : State) : (loadBlock s).off = s.off := by simp only [loadBlock]
@[simp] theorem loadBlock_ki (s : State) : (loadBlock s).ki = s.ki := by simp only [loadBlock]
@[simp] theorem loadBlock_uop (s : State) : (loadBlock s).uop = s.uop := by simp only [loadBlock]
@[simp] theorem loadBlock_mem (s : State) : (loadBlock s).mem = s.mem := by simp only [loadBlock]
@[simp] theorem loadBlock_platform (s : State) : (loadBlock s).platform = s.platform := by simp only [loadBlock]
@[simp] theorem loadBlock_host (s : State) : (loadBlock s).host = s.host := by simp only [loadBlock]
@[simp] theorem loadBlock_hostData (s : State) : (loadBlock s).hostData = s.hostData := by simp only [loadBlock]
@[simp] theorem loadBlock_written (s : State) : (loadBlock s).written = s.written := by simp only [loadBlock]
@[simp] theorem loadBlock_draws (s : State) : (loadBlock s).draws = s.draws := by simp only [loadBlock]

/-! `StoreBlock(OFF)` (`storeBlock`). -/

@[simp] theorem storeBlock_valid (s : State) : (storeBlock s).valid = s.valid := by simp only [storeBlock]
@[simp] theorem storeBlock_variant (s : State) : (storeBlock s).variant = s.variant := by simp only [storeBlock]
@[simp] theorem storeBlock_mode (s : State) : (storeBlock s).mode = s.mode := by simp only [storeBlock]
@[simp] theorem storeBlock_rks (s : State) : (storeBlock s).rks = s.rks := by simp only [storeBlock]
@[simp] theorem storeBlock_chain (s : State) : (storeBlock s).chain = s.chain := by simp only [storeBlock]
@[simp] theorem storeBlock_err (s : State) : (storeBlock s).err = s.err := by simp only [storeBlock]
@[simp] theorem storeBlock_busy (s : State) : (storeBlock s).busy = s.busy := by simp only [storeBlock]
@[simp] theorem storeBlock_keyIn (s : State) : (storeBlock s).keyIn = s.keyIn := by simp only [storeBlock]
@[simp] theorem storeBlock_keyLen (s : State) : (storeBlock s).keyLen = s.keyLen := by simp only [storeBlock]
@[simp] theorem storeBlock_ivIn (s : State) : (storeBlock s).ivIn = s.ivIn := by simp only [storeBlock]
@[simp] theorem storeBlock_ivLen (s : State) : (storeBlock s).ivLen = s.ivLen := by simp only [storeBlock]
@[simp] theorem storeBlock_bufAddr (s : State) : (storeBlock s).bufAddr = s.bufAddr := by simp only [storeBlock]
@[simp] theorem storeBlock_bufLen (s : State) : (storeBlock s).bufLen = s.bufLen := by simp only [storeBlock]
@[simp] theorem storeBlock_st (s : State) : (storeBlock s).st = s.st := by simp only [storeBlock]
@[simp] theorem storeBlock_ks (s : State) : (storeBlock s).ks = s.ks := by simp only [storeBlock]
@[simp] theorem storeBlock_nextIv (s : State) : (storeBlock s).nextIv = s.nextIv := by simp only [storeBlock]
@[simp] theorem storeBlock_ch (s : State) : (storeBlock s).ch = s.ch := by simp only [storeBlock]
@[simp] theorem storeBlock_rnd (s : State) : (storeBlock s).rnd = s.rnd := by simp only [storeBlock]
@[simp] theorem storeBlock_off (s : State) : (storeBlock s).off = s.off := by simp only [storeBlock]
@[simp] theorem storeBlock_ki (s : State) : (storeBlock s).ki = s.ki := by simp only [storeBlock]
@[simp] theorem storeBlock_uop (s : State) : (storeBlock s).uop = s.uop := by simp only [storeBlock]
@[simp] theorem storeBlock_mem (s : State) : (storeBlock s).mem = writeBlock s.mem (s.bufAddr + s.off) s.st := by
  simp only [storeBlock]
@[simp] theorem storeBlock_platform (s : State) : (storeBlock s).platform = s.platform := by simp only [storeBlock]
@[simp] theorem storeBlock_host (s : State) : (storeBlock s).host = s.host := by simp only [storeBlock]
@[simp] theorem storeBlock_hostData (s : State) : (storeBlock s).hostData = s.hostData := by simp only [storeBlock]
@[simp] theorem storeBlock_written (s : State) : (storeBlock s).written = s.written := by simp only [storeBlock]
@[simp] theorem storeBlock_draws (s : State) : (storeBlock s).draws = s.draws := by simp only [storeBlock]

/-! `EncryptBlock()` (`encryptState`). -/

@[simp] theorem encryptState_valid (s : State) : (encryptState s).valid = s.valid := by simp only [encryptState]
@[simp] theorem encryptState_variant (s : State) : (encryptState s).variant = s.variant := by
  simp only [encryptState]
@[simp] theorem encryptState_mode (s : State) : (encryptState s).mode = s.mode := by simp only [encryptState]
@[simp] theorem encryptState_rks (s : State) : (encryptState s).rks = s.rks := by simp only [encryptState]
@[simp] theorem encryptState_chain (s : State) : (encryptState s).chain = s.chain := by simp only [encryptState]
@[simp] theorem encryptState_err (s : State) : (encryptState s).err = s.err := by simp only [encryptState]
@[simp] theorem encryptState_busy (s : State) : (encryptState s).busy = s.busy := by simp only [encryptState]
@[simp] theorem encryptState_keyIn (s : State) : (encryptState s).keyIn = s.keyIn := by simp only [encryptState]
@[simp] theorem encryptState_keyLen (s : State) : (encryptState s).keyLen = s.keyLen := by simp only [encryptState]
@[simp] theorem encryptState_ivIn (s : State) : (encryptState s).ivIn = s.ivIn := by simp only [encryptState]
@[simp] theorem encryptState_ivLen (s : State) : (encryptState s).ivLen = s.ivLen := by simp only [encryptState]
@[simp] theorem encryptState_bufAddr (s : State) : (encryptState s).bufAddr = s.bufAddr := by
  simp only [encryptState]
@[simp] theorem encryptState_bufLen (s : State) : (encryptState s).bufLen = s.bufLen := by simp only [encryptState]
@[simp] theorem encryptState_st (s : State) : (encryptState s).st = encryptBlock s.rks (nrOf s.variant) s.st := by
  simp only [encryptState]
@[simp] theorem encryptState_ks (s : State) : (encryptState s).ks = s.ks := by simp only [encryptState]
@[simp] theorem encryptState_nextIv (s : State) : (encryptState s).nextIv = s.nextIv := by simp only [encryptState]
@[simp] theorem encryptState_ch (s : State) : (encryptState s).ch = s.ch := by simp only [encryptState]
@[simp] theorem encryptState_rnd (s : State) : (encryptState s).rnd = nrOf s.variant := by simp only [encryptState]
@[simp] theorem encryptState_off (s : State) : (encryptState s).off = s.off := by simp only [encryptState]
@[simp] theorem encryptState_ki (s : State) : (encryptState s).ki = s.ki := by simp only [encryptState]
@[simp] theorem encryptState_uop (s : State) : (encryptState s).uop = s.uop := by simp only [encryptState]
@[simp] theorem encryptState_mem (s : State) : (encryptState s).mem = s.mem := by simp only [encryptState]
@[simp] theorem encryptState_platform (s : State) : (encryptState s).platform = s.platform := by
  simp only [encryptState]
@[simp] theorem encryptState_host (s : State) : (encryptState s).host = s.host := by simp only [encryptState]
@[simp] theorem encryptState_hostData (s : State) : (encryptState s).hostData = s.hostData := by
  simp only [encryptState]
@[simp] theorem encryptState_written (s : State) : (encryptState s).written = s.written := by
  simp only [encryptState]
@[simp] theorem encryptState_draws (s : State) : (encryptState s).draws = s.draws := by simp only [encryptState]

/-! `DecryptBlock()` (`decryptState`). -/

@[simp] theorem decryptState_valid (s : State) : (decryptState s).valid = s.valid := by simp only [decryptState]
@[simp] theorem decryptState_variant (s : State) : (decryptState s).variant = s.variant := by
  simp only [decryptState]
@[simp] theorem decryptState_mode (s : State) : (decryptState s).mode = s.mode := by simp only [decryptState]
@[simp] theorem decryptState_rks (s : State) : (decryptState s).rks = s.rks := by simp only [decryptState]
@[simp] theorem decryptState_chain (s : State) : (decryptState s).chain = s.chain := by simp only [decryptState]
@[simp] theorem decryptState_err (s : State) : (decryptState s).err = s.err := by simp only [decryptState]
@[simp] theorem decryptState_busy (s : State) : (decryptState s).busy = s.busy := by simp only [decryptState]
@[simp] theorem decryptState_keyIn (s : State) : (decryptState s).keyIn = s.keyIn := by simp only [decryptState]
@[simp] theorem decryptState_keyLen (s : State) : (decryptState s).keyLen = s.keyLen := by simp only [decryptState]
@[simp] theorem decryptState_ivIn (s : State) : (decryptState s).ivIn = s.ivIn := by simp only [decryptState]
@[simp] theorem decryptState_ivLen (s : State) : (decryptState s).ivLen = s.ivLen := by simp only [decryptState]
@[simp] theorem decryptState_bufAddr (s : State) : (decryptState s).bufAddr = s.bufAddr := by
  simp only [decryptState]
@[simp] theorem decryptState_bufLen (s : State) : (decryptState s).bufLen = s.bufLen := by simp only [decryptState]
@[simp] theorem decryptState_st (s : State) : (decryptState s).st = decryptBlock s.rks (nrOf s.variant) s.st := by
  simp only [decryptState]
@[simp] theorem decryptState_ks (s : State) : (decryptState s).ks = s.ks := by simp only [decryptState]
@[simp] theorem decryptState_nextIv (s : State) : (decryptState s).nextIv = s.nextIv := by simp only [decryptState]
@[simp] theorem decryptState_ch (s : State) : (decryptState s).ch = s.ch := by simp only [decryptState]
@[simp] theorem decryptState_rnd (s : State) : (decryptState s).rnd = 0 := by simp only [decryptState]
@[simp] theorem decryptState_off (s : State) : (decryptState s).off = s.off := by simp only [decryptState]
@[simp] theorem decryptState_ki (s : State) : (decryptState s).ki = s.ki := by simp only [decryptState]
@[simp] theorem decryptState_uop (s : State) : (decryptState s).uop = s.uop := by simp only [decryptState]
@[simp] theorem decryptState_mem (s : State) : (decryptState s).mem = s.mem := by simp only [decryptState]
@[simp] theorem decryptState_platform (s : State) : (decryptState s).platform = s.platform := by
  simp only [decryptState]
@[simp] theorem decryptState_host (s : State) : (decryptState s).host = s.host := by simp only [decryptState]
@[simp] theorem decryptState_hostData (s : State) : (decryptState s).hostData = s.hostData := by
  simp only [decryptState]
@[simp] theorem decryptState_written (s : State) : (decryptState s).written = s.written := by
  simp only [decryptState]
@[simp] theorem decryptState_draws (s : State) : (decryptState s).draws = s.draws := by simp only [decryptState]

/-! `CHAIN <- CH` (`chainFromCh`). -/

@[simp] theorem chainFromCh_valid (s : State) : (chainFromCh s).valid = s.valid := by simp only [chainFromCh]
@[simp] theorem chainFromCh_variant (s : State) : (chainFromCh s).variant = s.variant := by simp only [chainFromCh]
@[simp] theorem chainFromCh_mode (s : State) : (chainFromCh s).mode = s.mode := by simp only [chainFromCh]
@[simp] theorem chainFromCh_rks (s : State) : (chainFromCh s).rks = s.rks := by simp only [chainFromCh]
@[simp] theorem chainFromCh_chain (s : State) : (chainFromCh s).chain = s.ch := by simp only [chainFromCh]
@[simp] theorem chainFromCh_err (s : State) : (chainFromCh s).err = s.err := by simp only [chainFromCh]
@[simp] theorem chainFromCh_busy (s : State) : (chainFromCh s).busy = s.busy := by simp only [chainFromCh]
@[simp] theorem chainFromCh_keyIn (s : State) : (chainFromCh s).keyIn = s.keyIn := by simp only [chainFromCh]
@[simp] theorem chainFromCh_keyLen (s : State) : (chainFromCh s).keyLen = s.keyLen := by simp only [chainFromCh]
@[simp] theorem chainFromCh_ivIn (s : State) : (chainFromCh s).ivIn = s.ivIn := by simp only [chainFromCh]
@[simp] theorem chainFromCh_ivLen (s : State) : (chainFromCh s).ivLen = s.ivLen := by simp only [chainFromCh]
@[simp] theorem chainFromCh_bufAddr (s : State) : (chainFromCh s).bufAddr = s.bufAddr := by simp only [chainFromCh]
@[simp] theorem chainFromCh_bufLen (s : State) : (chainFromCh s).bufLen = s.bufLen := by simp only [chainFromCh]
@[simp] theorem chainFromCh_st (s : State) : (chainFromCh s).st = s.st := by simp only [chainFromCh]
@[simp] theorem chainFromCh_ks (s : State) : (chainFromCh s).ks = s.ks := by simp only [chainFromCh]
@[simp] theorem chainFromCh_nextIv (s : State) : (chainFromCh s).nextIv = s.nextIv := by simp only [chainFromCh]
@[simp] theorem chainFromCh_ch (s : State) : (chainFromCh s).ch = s.ch := by simp only [chainFromCh]
@[simp] theorem chainFromCh_rnd (s : State) : (chainFromCh s).rnd = s.rnd := by simp only [chainFromCh]
@[simp] theorem chainFromCh_off (s : State) : (chainFromCh s).off = s.off := by simp only [chainFromCh]
@[simp] theorem chainFromCh_ki (s : State) : (chainFromCh s).ki = s.ki := by simp only [chainFromCh]
@[simp] theorem chainFromCh_uop (s : State) : (chainFromCh s).uop = s.uop := by simp only [chainFromCh]
@[simp] theorem chainFromCh_mem (s : State) : (chainFromCh s).mem = s.mem := by simp only [chainFromCh]
@[simp] theorem chainFromCh_platform (s : State) : (chainFromCh s).platform = s.platform := by
  simp only [chainFromCh]
@[simp] theorem chainFromCh_host (s : State) : (chainFromCh s).host = s.host := by simp only [chainFromCh]
@[simp] theorem chainFromCh_hostData (s : State) : (chainFromCh s).hostData = s.hostData := by
  simp only [chainFromCh]
@[simp] theorem chainFromCh_written (s : State) : (chainFromCh s).written = s.written := by simp only [chainFromCh]
@[simp] theorem chainFromCh_draws (s : State) : (chainFromCh s).draws = s.draws := by simp only [chainFromCh]

/-! The next offset (`advance`). -/

@[simp] theorem advance_valid (n : Nat) (s : State) : (advance n s).valid = s.valid := by simp only [advance]
@[simp] theorem advance_variant (n : Nat) (s : State) : (advance n s).variant = s.variant := by simp only [advance]
@[simp] theorem advance_mode (n : Nat) (s : State) : (advance n s).mode = s.mode := by simp only [advance]
@[simp] theorem advance_rks (n : Nat) (s : State) : (advance n s).rks = s.rks := by simp only [advance]
@[simp] theorem advance_chain (n : Nat) (s : State) : (advance n s).chain = s.chain := by simp only [advance]
@[simp] theorem advance_err (n : Nat) (s : State) : (advance n s).err = s.err := by simp only [advance]
@[simp] theorem advance_busy (n : Nat) (s : State) : (advance n s).busy = s.busy := by simp only [advance]
@[simp] theorem advance_keyIn (n : Nat) (s : State) : (advance n s).keyIn = s.keyIn := by simp only [advance]
@[simp] theorem advance_keyLen (n : Nat) (s : State) : (advance n s).keyLen = s.keyLen := by simp only [advance]
@[simp] theorem advance_ivIn (n : Nat) (s : State) : (advance n s).ivIn = s.ivIn := by simp only [advance]
@[simp] theorem advance_ivLen (n : Nat) (s : State) : (advance n s).ivLen = s.ivLen := by simp only [advance]
@[simp] theorem advance_bufAddr (n : Nat) (s : State) : (advance n s).bufAddr = s.bufAddr := by simp only [advance]
@[simp] theorem advance_bufLen (n : Nat) (s : State) : (advance n s).bufLen = s.bufLen := by simp only [advance]
@[simp] theorem advance_st (n : Nat) (s : State) : (advance n s).st = s.st := by simp only [advance]
@[simp] theorem advance_ks (n : Nat) (s : State) : (advance n s).ks = s.ks := by simp only [advance]
@[simp] theorem advance_nextIv (n : Nat) (s : State) : (advance n s).nextIv = s.nextIv := by simp only [advance]
@[simp] theorem advance_ch (n : Nat) (s : State) : (advance n s).ch = s.ch := by simp only [advance]
@[simp] theorem advance_rnd (n : Nat) (s : State) : (advance n s).rnd = s.rnd := by simp only [advance]
@[simp] theorem advance_off (n : Nat) (s : State) : (advance n s).off = s.off + n := by simp only [advance]
@[simp] theorem advance_ki (n : Nat) (s : State) : (advance n s).ki = s.ki := by simp only [advance]
@[simp] theorem advance_uop (n : Nat) (s : State) : (advance n s).uop = s.uop := by simp only [advance]
@[simp] theorem advance_mem (n : Nat) (s : State) : (advance n s).mem = s.mem := by simp only [advance]
@[simp] theorem advance_platform (n : Nat) (s : State) : (advance n s).platform = s.platform := by
  simp only [advance]
@[simp] theorem advance_host (n : Nat) (s : State) : (advance n s).host = s.host := by simp only [advance]
@[simp] theorem advance_hostData (n : Nat) (s : State) : (advance n s).hostData = s.hostData := by
  simp only [advance]
@[simp] theorem advance_written (n : Nat) (s : State) : (advance n s).written = s.written := by simp only [advance]
@[simp] theorem advance_draws (n : Nat) (s : State) : (advance n s).draws = s.draws := by simp only [advance]

/-! The operand registers of another state (`withOperandsOf`). -/

@[simp] theorem withOperandsOf_valid (t s : State) : (withOperandsOf t s).valid = s.valid := by
  simp only [withOperandsOf]
@[simp] theorem withOperandsOf_variant (t s : State) : (withOperandsOf t s).variant = s.variant := by
  simp only [withOperandsOf]
@[simp] theorem withOperandsOf_mode (t s : State) : (withOperandsOf t s).mode = s.mode := by
  simp only [withOperandsOf]
@[simp] theorem withOperandsOf_rks (t s : State) : (withOperandsOf t s).rks = s.rks := by simp only [withOperandsOf]
@[simp] theorem withOperandsOf_chain (t s : State) : (withOperandsOf t s).chain = s.chain := by
  simp only [withOperandsOf]
@[simp] theorem withOperandsOf_err (t s : State) : (withOperandsOf t s).err = s.err := by simp only [withOperandsOf]
@[simp] theorem withOperandsOf_busy (t s : State) : (withOperandsOf t s).busy = s.busy := by
  simp only [withOperandsOf]
@[simp] theorem withOperandsOf_keyIn (t s : State) : (withOperandsOf t s).keyIn = t.keyIn := by
  simp only [withOperandsOf]
@[simp] theorem withOperandsOf_keyLen (t s : State) : (withOperandsOf t s).keyLen = t.keyLen := by
  simp only [withOperandsOf]
@[simp] theorem withOperandsOf_ivIn (t s : State) : (withOperandsOf t s).ivIn = t.ivIn := by
  simp only [withOperandsOf]
@[simp] theorem withOperandsOf_ivLen (t s : State) : (withOperandsOf t s).ivLen = t.ivLen := by
  simp only [withOperandsOf]
@[simp] theorem withOperandsOf_bufAddr (t s : State) : (withOperandsOf t s).bufAddr = t.bufAddr := by
  simp only [withOperandsOf]
@[simp] theorem withOperandsOf_bufLen (t s : State) : (withOperandsOf t s).bufLen = t.bufLen := by
  simp only [withOperandsOf]
@[simp] theorem withOperandsOf_st (t s : State) : (withOperandsOf t s).st = s.st := by simp only [withOperandsOf]
@[simp] theorem withOperandsOf_ks (t s : State) : (withOperandsOf t s).ks = s.ks := by simp only [withOperandsOf]
@[simp] theorem withOperandsOf_nextIv (t s : State) : (withOperandsOf t s).nextIv = s.nextIv := by
  simp only [withOperandsOf]
@[simp] theorem withOperandsOf_ch (t s : State) : (withOperandsOf t s).ch = s.ch := by simp only [withOperandsOf]
@[simp] theorem withOperandsOf_rnd (t s : State) : (withOperandsOf t s).rnd = s.rnd := by simp only [withOperandsOf]
@[simp] theorem withOperandsOf_off (t s : State) : (withOperandsOf t s).off = s.off := by simp only [withOperandsOf]
@[simp] theorem withOperandsOf_ki (t s : State) : (withOperandsOf t s).ki = s.ki := by simp only [withOperandsOf]
@[simp] theorem withOperandsOf_uop (t s : State) : (withOperandsOf t s).uop = s.uop := by simp only [withOperandsOf]
@[simp] theorem withOperandsOf_mem (t s : State) : (withOperandsOf t s).mem = s.mem := by simp only [withOperandsOf]
@[simp] theorem withOperandsOf_platform (t s : State) : (withOperandsOf t s).platform = s.platform := by
  simp only [withOperandsOf]
@[simp] theorem withOperandsOf_host (t s : State) : (withOperandsOf t s).host = s.host := by
  simp only [withOperandsOf]
@[simp] theorem withOperandsOf_hostData (t s : State) : (withOperandsOf t s).hostData = s.hostData := by
  simp only [withOperandsOf]
@[simp] theorem withOperandsOf_written (t s : State) : (withOperandsOf t s).written = s.written := by
  simp only [withOperandsOf]
@[simp] theorem withOperandsOf_draws (t s : State) : (withOperandsOf t s).draws = s.draws := by
  simp only [withOperandsOf]

/-! A successful NEW (`buildContext`). -/

@[simp] theorem buildContext_valid (v : Variant) (m : Mode) (s : State) : (buildContext v m s).valid = true := by
  simp only [buildContext, succeed, releaseKi]
@[simp] theorem buildContext_variant (v : Variant) (m : Mode) (s : State) : (buildContext v m s).variant = v := by
  simp only [buildContext, succeed, releaseKi]
@[simp] theorem buildContext_mode (v : Variant) (m : Mode) (s : State) : (buildContext v m s).mode = m := by
  simp only [buildContext, succeed, releaseKi]
@[simp] theorem buildContext_rks (v : Variant) (m : Mode) (s : State) : (buildContext v m s).rks = scheduleStorage (keyOperand s) v s.draws := by
  simp only [buildContext, succeed, releaseKi]
@[simp] theorem buildContext_chain (v : Variant) (m : Mode) (s : State) : (buildContext v m s).chain = s.ivIn := by
  simp only [buildContext, succeed, releaseKi]
@[simp] theorem buildContext_err (v : Variant) (m : Mode) (s : State) : (buildContext v m s).err = .ok := by
  simp only [buildContext, succeed, releaseKi]
@[simp] theorem buildContext_busy (v : Variant) (m : Mode) (s : State) : (buildContext v m s).busy = false := by
  simp only [buildContext, succeed, releaseKi]
@[simp] theorem buildContext_keyIn (v : Variant) (m : Mode) (s : State) : (buildContext v m s).keyIn = s.keyIn := by
  simp only [buildContext, succeed, releaseKi]
@[simp] theorem buildContext_keyLen (v : Variant) (m : Mode) (s : State) : (buildContext v m s).keyLen = s.keyLen := by
  simp only [buildContext, succeed, releaseKi]
@[simp] theorem buildContext_ivIn (v : Variant) (m : Mode) (s : State) : (buildContext v m s).ivIn = s.ivIn := by
  simp only [buildContext, succeed, releaseKi]
@[simp] theorem buildContext_ivLen (v : Variant) (m : Mode) (s : State) : (buildContext v m s).ivLen = s.ivLen := by
  simp only [buildContext, succeed, releaseKi]
@[simp] theorem buildContext_bufAddr (v : Variant) (m : Mode) (s : State) : (buildContext v m s).bufAddr = s.bufAddr := by
  simp only [buildContext, succeed, releaseKi]
@[simp] theorem buildContext_bufLen (v : Variant) (m : Mode) (s : State) : (buildContext v m s).bufLen = s.bufLen := by
  simp only [buildContext, succeed, releaseKi]
@[simp] theorem buildContext_st (v : Variant) (m : Mode) (s : State) : (buildContext v m s).st = s.st := by
  simp only [buildContext, succeed, releaseKi]
@[simp] theorem buildContext_ks (v : Variant) (m : Mode) (s : State) : (buildContext v m s).ks = s.ks := by
  simp only [buildContext, succeed, releaseKi]
@[simp] theorem buildContext_nextIv (v : Variant) (m : Mode) (s : State) : (buildContext v m s).nextIv = s.nextIv := by
  simp only [buildContext, succeed, releaseKi]
@[simp] theorem buildContext_ch (v : Variant) (m : Mode) (s : State) : (buildContext v m s).ch = s.ch := by
  simp only [buildContext, succeed, releaseKi]
@[simp] theorem buildContext_rnd (v : Variant) (m : Mode) (s : State) : (buildContext v m s).rnd = s.rnd := by
  simp only [buildContext, succeed, releaseKi]
@[simp] theorem buildContext_off (v : Variant) (m : Mode) (s : State) : (buildContext v m s).off = s.off := by
  simp only [buildContext, succeed, releaseKi]
@[simp] theorem buildContext_ki (v : Variant) (m : Mode) (s : State) : (buildContext v m s).ki = Config.freeNat s.draws 0 % 60 := by
  simp only [buildContext, succeed, releaseKi]
@[simp] theorem buildContext_uop (v : Variant) (m : Mode) (s : State) : (buildContext v m s).uop = s.uop := by
  simp only [buildContext, succeed, releaseKi]
@[simp] theorem buildContext_mem (v : Variant) (m : Mode) (s : State) : (buildContext v m s).mem = s.mem := by
  simp only [buildContext, succeed, releaseKi]
@[simp] theorem buildContext_platform (v : Variant) (m : Mode) (s : State) : (buildContext v m s).platform = s.platform := by
  simp only [buildContext, succeed, releaseKi]
@[simp] theorem buildContext_host (v : Variant) (m : Mode) (s : State) : (buildContext v m s).host = s.host := by
  simp only [buildContext, succeed, releaseKi]
@[simp] theorem buildContext_hostData (v : Variant) (m : Mode) (s : State) : (buildContext v m s).hostData = s.hostData := by
  simp only [buildContext, succeed, releaseKi]
@[simp] theorem buildContext_written (v : Variant) (m : Mode) (s : State) : (buildContext v m s).written = s.written := by
  simp only [buildContext, succeed, releaseKi]
@[simp] theorem buildContext_draws (v : Variant) (m : Mode) (s : State) : (buildContext v m s).draws = s.draws + 1 := by
  simp only [buildContext, succeed, releaseKi]

end Sys2Proof.Machine
end

