-- ==== Sys2Proof/Laws/ModeDriver.lean ====
section
/-! SUPPORT. What one turn of each data command's loop does, and induction over the loop. Proofs about a data command cite
these equations and never unfold a body. -/

namespace Sys2Proof.Machine

/-- One block of ECB_ENCRYPT (R122). -/
theorem ecbEncryptBody_eq (s : State) : ecbEncryptBody s = { s with
    mem := writeBlock s.mem (s.bufAddr + s.off)
      (encryptBlock s.rks (nrOf s.variant) (readBlock s.mem (s.bufAddr + s.off)))
    st := encryptBlock s.rks (nrOf s.variant) (readBlock s.mem (s.bufAddr + s.off))
    rnd := nrOf s.variant
    off := s.off + 16 } := by
  simp only [ecbEncryptBody, advance, storeBlock, loadBlock, encryptState]

/-- One block of ECB_DECRYPT (R123). -/
theorem ecbDecryptBody_eq (s : State) : ecbDecryptBody s = { s with
    mem := writeBlock s.mem (s.bufAddr + s.off)
      (decryptBlock s.rks (nrOf s.variant) (readBlock s.mem (s.bufAddr + s.off)))
    st := decryptBlock s.rks (nrOf s.variant) (readBlock s.mem (s.bufAddr + s.off))
    rnd := 0
    off := s.off + 16 } := by
  simp only [ecbDecryptBody, advance, storeBlock, loadBlock, decryptState]

/-- The ciphertext block one turn of CBC_ENCRYPT stores (R124). -/
def cbcCipherBlock (s : State) : Block :=
  encryptBlock s.rks (nrOf s.variant) (xorBlock (readBlock s.mem (s.bufAddr + s.off)) s.ch)

/-- One block of CBC_ENCRYPT (R124). -/
theorem cbcEncryptBody_eq (s : State) : cbcEncryptBody s = { s with
    mem := writeBlock s.mem (s.bufAddr + s.off) (cbcCipherBlock s)
    st := cbcCipherBlock s
    ch := cbcCipherBlock s
    rnd := nrOf s.variant
    off := s.off + 16 } := by
  simp only [cbcEncryptBody, advance, storeBlock, loadBlock, encryptState, cbcCipherBlock]

/-- The plaintext block one turn of CBC_DECRYPT stores (R125). -/
def cbcPlainBlock (s : State) : Block :=
  xorBlock (decryptBlock s.rks (nrOf s.variant) (readBlock s.mem (s.bufAddr + s.off))) s.chain

/-- One block of CBC_DECRYPT (R125). -/
theorem cbcDecryptBody_eq (s : State) : cbcDecryptBody s = { s with
    mem := writeBlock s.mem (s.bufAddr + s.off) (cbcPlainBlock s)
    chain := readBlock s.mem (s.bufAddr + s.off)
    st := cbcPlainBlock s
    nextIv := readBlock s.mem (s.bufAddr + s.off)
    rnd := 0
    off := s.off + 16 } := by
  simp only [cbcDecryptBody, advance, storeBlock, loadBlock, decryptState, cbcPlainBlock]

/-- The keystream block of one turn of CTR_XCRYPT (R127). -/
def ctrKeystream (s : State) : Block := encryptBlock s.rks (nrOf s.variant) s.chain

/-- The bytes of the chunk that starts at `OFF` (R127). -/
def ctrChunkLen (s : State) : Nat := min 16 (s.bufLen - s.off)

/-- One chunk of CTR_XCRYPT (R127). -/
theorem ctrBody_eq (s : State) : ctrBody s = { s with
    mem := memWrite s.mem (s.bufAddr + s.off)
      (xorChunk (memRead s.mem (s.bufAddr + s.off) (ctrChunkLen s)) (ctrKeystream s))
    chain := ctrInc s.chain
    st := ctrKeystream s
    ks := ctrKeystream s
    rnd := nrOf s.variant
    off := s.off + ctrChunkLen s } := by
  simp only [ctrBody, advance, encryptState, ctrKeystream, ctrChunkLen]

/-- The chunk stored has the length of the chunk read. -/
@[simp] theorem length_xorChunk (chunk : List Byte) (ks : Block) : (xorChunk chunk ks).length = min chunk.length 16 := by
  simp [xorChunk]

/-- Byte `k` of a chunk XORed with the keystream. -/
theorem getElem?_xorChunk (chunk : List Byte) (ks : Block) (k : Nat) (hk : k < chunk.length) (h16 : k < 16) :
    (xorChunk chunk ks)[k]? = some (chunk[k] ^^^ byteAt ks k) := by
  simp [xorChunk, hk, byteAt, h16]

/-- Induction over the block loop: a property indexed by the number of turns taken. -/
theorem blockLoop_induction {P : Nat → State → Prop} {body : State → State} (n i : Nat) (s : State) (h0 : P i s)
    (hs : ∀ k t, i ≤ k → k < i + n → P k t → P (k + 1) (body t)) : P (i + n) (blockLoop body n s) := by
  induction n generalizing i s with
  | zero => exact h0
  | succ n ih =>
    have h := ih (i + 1) (body s) (hs i s (le_refl _) (by omega) h0) fun k t h1 h2 => hs k t (by omega) (by omega)
    rwa [show i + (n + 1) = i + 1 + n by omega]

/-- Induction over the buffer: what holds of 0 blocks at offset 0, and is carried by every turn, holds of them all. -/
theorem overBuffer_induction {P : Nat → State → Prop} {body : State → State} (s : State)
    (h0 : P 0 { s with off := 0 })
    (hs : ∀ k t, k < chunkCount s.bufLen → P k t → P (k + 1) (body t)) :
    P (chunkCount s.bufLen) (overBuffer body s) := by
  have h := blockLoop_induction (P := P) (body := body) (chunkCount s.bufLen) 0 { s with off := 0 } h0
    fun k t _ h2 => hs k t (by omega)
  rwa [Nat.zero_add] at h

/-- A property every turn carries holds after the loop. -/
theorem overBuffer_keeps {P : State → Prop} {body : State → State} (s : State) (h0 : P { s with off := 0 })
    (hs : ∀ t, P t → P (body t)) : P (overBuffer body s) :=
  overBuffer_induction (P := fun _ t => P t) s h0 fun _ t _ h => hs t h

/-! The frame of a data command. -/

theorem dataFrame_refl (s : State) : DataFrame s s := by constructor <;> rfl

theorem dataFrame_trans {s t u : State} (h : DataFrame s t) (k : DataFrame t u) : DataFrame s u where
  valid := k.valid.trans h.valid
  variant := k.variant.trans h.variant
  mode := k.mode.trans h.mode
  rks := k.rks.trans h.rks
  keyIn := k.keyIn.trans h.keyIn
  keyLen := k.keyLen.trans h.keyLen
  ivIn := k.ivIn.trans h.ivIn
  ivLen := k.ivLen.trans h.ivLen
  bufAddr := k.bufAddr.trans h.bufAddr
  bufLen := k.bufLen.trans h.bufLen
  ki := k.ki.trans h.ki
  uop := k.uop.trans h.uop
  platform := k.platform.trans h.platform
  host := k.host.trans h.host
  hostData := k.hostData.trans h.hostData
  written := k.written.trans h.written

theorem dataFrame_ecbEncryptBody (s : State) : DataFrame s (ecbEncryptBody s) := by
  rw [ecbEncryptBody_eq]; constructor <;> dsimp only

theorem dataFrame_ecbDecryptBody (s : State) : DataFrame s (ecbDecryptBody s) := by
  rw [ecbDecryptBody_eq]; constructor <;> dsimp only

theorem dataFrame_cbcEncryptBody (s : State) : DataFrame s (cbcEncryptBody s) := by
  rw [cbcEncryptBody_eq]; constructor <;> dsimp only

theorem dataFrame_cbcDecryptBody (s : State) : DataFrame s (cbcDecryptBody s) := by
  rw [cbcDecryptBody_eq]; constructor <;> dsimp only

theorem dataFrame_ctrBody (s : State) : DataFrame s (ctrBody s) := by
  rw [ctrBody_eq]; constructor <;> dsimp only

theorem dataFrame_off (s : State) (n : Nat) : DataFrame s { s with off := n } := by constructor <;> rfl

/-- A loop whose every turn keeps the frame keeps it. -/
theorem dataFrame_overBuffer {body : State → State} (hb : ∀ t, DataFrame t (body t)) (s : State) :
    DataFrame s (overBuffer body s) :=
  overBuffer_keeps (P := DataFrame s) s (dataFrame_off s 0) fun t h => dataFrame_trans h (hb t)

theorem dataFrame_releaseScratch (s : State) : DataFrame s (releaseScratch s) := by constructor <;> simp only [releaseScratch]

theorem dataFrame_releaseCh (s : State) : DataFrame s (releaseCh s) := by constructor <;> simp only [releaseCh]

theorem dataFrame_releaseNextIv (s : State) : DataFrame s (releaseNextIv s) := by constructor <;> simp only [releaseNextIv]

theorem dataFrame_releaseKs (s : State) : DataFrame s (releaseKs s) := by constructor <;> simp only [releaseKs]

theorem dataFrame_succeed (s : State) : DataFrame s (succeed s) := by constructor <;> simp only [succeed]

theorem dataFrame_ch (s : State) (b : Block) : DataFrame s { s with ch := b } := by constructor <;> rfl

theorem dataFrame_chainFromCh (s : State) : DataFrame s (chainFromCh s) := by constructor <;> simp only [chainFromCh]

/-! The five data commands where they run (R120). -/

/-- The buffer pass of each data command; any other instruction leaves the state. -/
def bufferPass : Instr → State → State
  | .ecbEncrypt, s => ecbEncryptBuffer s
  | .ecbDecrypt, s => ecbDecryptBuffer s
  | .cbcEncrypt, s => cbcEncryptBuffer s
  | .cbcDecrypt, s => cbcDecryptBuffer s
  | .ctrXcrypt, s => ctrBuffer s
  | .new _ _, s | .setIv, s => s
  | .subBytes, s | .shiftRows, s | .mixColumns, s | .addRoundKey, s => s
  | .invSubBytes, s | .invShiftRows, s | .invMixColumns, s => s

theorem exec_ecbEncrypt (s : State) : exec .ecbEncrypt s = dataCommand true ecbEncryptBuffer s := by
  simp only [exec, execEcbEncrypt]

theorem exec_ecbDecrypt (s : State) : exec .ecbDecrypt s = dataCommand true ecbDecryptBuffer s := by
  simp only [exec, execEcbDecrypt]

theorem exec_cbcEncrypt (s : State) : exec .cbcEncrypt s = dataCommand true cbcEncryptBuffer s := by
  simp only [exec, execCbcEncrypt]

theorem exec_cbcDecrypt (s : State) : exec .cbcDecrypt s = dataCommand true cbcDecryptBuffer s := by
  simp only [exec, execCbcDecrypt]

theorem exec_ctrXcrypt (s : State) : exec .ctrXcrypt s = dataCommand false ctrBuffer s := by
  simp only [exec, execCtrXcrypt]

/-- A data command is the shared prologue and its own pass over the buffer. -/
theorem exec_data {i : Instr} (hi : isData i = true) (s : State) :
    exec i s = dataCommand (needsBlocks i) (bufferPass i) s := by
  cases i <;> simp only [isData, reduceCtorEq] at hi
  · exact exec_ecbEncrypt s
  · exact exec_ecbDecrypt s
  · exact exec_cbcEncrypt s
  · exact exec_cbcDecrypt s
  · exact exec_ctrXcrypt s

/-- Everything a data command can do (R120): no context, a wrong length where it needs whole blocks, the refusal of an
illegal buffer, or success. -/
theorem exec_data_cases {i : Instr} (hi : isData i = true) (s : State) :
    (s.valid = false ∧ exec i s = raise .noContext s) ∨
    (s.valid = true ∧ needsBlocks i = true ∧ s.bufLen % 16 ≠ 0 ∧ exec i s = raise .bufLen s) ∨
    (s.valid = true ∧ (needsBlocks i = true → s.bufLen % 16 = 0) ∧ bufferOk s = false ∧
      exec i s = .refused .bufferNotMemory) ∨
    (s.valid = true ∧ (needsBlocks i = true → s.bufLen % 16 = 0) ∧ bufferOk s = true ∧
      exec i s = .next (succeed (bufferPass i s))) := by
  rw [exec_data hi]; exact dataCommand_cases _ _ s

/-- A data command on a context, a right length and a legal buffer succeeds. -/
theorem exec_data_ready {i : Instr} (hi : isData i = true) {s : State} (hv : s.valid = true)
    (hl : needsBlocks i = true → s.bufLen % 16 = 0) (hb : bufferOk s = true) :
    exec i s = .next (succeed (bufferPass i s)) := by
  rw [exec_data hi]; exact dataCommand_ready hv hl hb

/-- The buffer pass of a data command keeps the frame. -/
theorem dataFrame_bufferPass {i : Instr} (hi : isData i = true) (s : State) : DataFrame s (bufferPass i s) := by
  cases i <;> simp only [isData, reduceCtorEq] at hi <;> simp only [bufferPass]
  · exact dataFrame_trans (dataFrame_overBuffer dataFrame_ecbEncryptBody s) (dataFrame_releaseScratch _)
  · exact dataFrame_trans (dataFrame_overBuffer dataFrame_ecbDecryptBody s) (dataFrame_releaseScratch _)
  · exact dataFrame_trans (dataFrame_trans (dataFrame_trans (dataFrame_trans (dataFrame_ch s s.chain)
      (dataFrame_overBuffer dataFrame_cbcEncryptBody _)) (dataFrame_chainFromCh _)) (dataFrame_releaseScratch _))
      (dataFrame_releaseCh _)
  · exact dataFrame_trans (dataFrame_trans (dataFrame_overBuffer dataFrame_cbcDecryptBody s)
      (dataFrame_releaseScratch _)) (dataFrame_releaseNextIv _)
  · exact dataFrame_trans (dataFrame_trans (dataFrame_overBuffer dataFrame_ctrBody s)
      (dataFrame_releaseScratch _)) (dataFrame_releaseKs _)

/-- `ceil` turns cover a buffer of whole blocks exactly. -/
theorem chunkCount_blocks {n : Nat} (h : n % 16 = 0) : 16 * chunkCount n = n := by unfold chunkCount; omega

end Sys2Proof.Machine
end

