-- ==== Sys2Proof/Laws/PerInstr.lean ====
section
/-! SUPPORT. The per-instruction family `Unambiguous`: no other well-formed instruction has this one's code
(`30_encoding.md` R65, R67). -/

namespace Sys2Proof.Laws.Unambiguous

/-- The code of a well-formed instruction is the code of no other well-formed instruction. -/
def Statement (i : Instr) : Prop := wellFormed i = true → ∀ j : Instr, wellFormed j = true → encode j = encode i → j = i

/-- Distinct fields of NEW give distinct words. -/
theorem new_word_injective : ∀ v m v' m' : BitVec 2, 0#1 ++ m' ++ v' ++ 1#3 = 0#1 ++ m ++ v ++ 1#3 → v' = v ∧ m' = m := by
  decide

/-- No NEW has the word of a command with another `OP`. -/
theorem new_word_op : ∀ v m : BitVec 2, (0#1 ++ m ++ v ++ 1#3).extractLsb' 0 3 = 1#3 := by decide

theorem new (variant mode : BitVec 2) : Statement (.new variant mode) := by
  intro _ j _ h
  cases j with
  | new v m =>
    obtain ⟨rfl, rfl⟩ := new_word_injective variant mode v m (Code.cmd.inj h)
    rfl
  | setIv | ecbEncrypt | ecbDecrypt | cbcEncrypt | cbcDecrypt | ctrXcrypt =>
    have := new_word_op variant mode
    rw [← Code.cmd.inj h] at this
    exact absurd this (by decide)
  | subBytes | shiftRows | mixColumns | addRoundKey | invSubBytes | invShiftRows | invMixColumns => cases h

/-- An instruction without fields whose code is no NEW's is unambiguous if its code is no other such instruction's. -/
theorem plain {i : Instr} (hnew : ∀ v m, encode (.new v m) ≠ encode i)
    (hi : ∀ j ∈ [Instr.setIv, .ecbEncrypt, .ecbDecrypt, .cbcEncrypt, .cbcDecrypt, .ctrXcrypt, .subBytes, .shiftRows,
      .mixColumns, .addRoundKey, .invSubBytes, .invShiftRows, .invMixColumns], encode j = encode i → j = i) :
    Statement i := by
  intro _ j _ h
  cases j with
  | new v m => exact absurd h (hnew v m)
  | setIv | ecbEncrypt | ecbDecrypt | cbcEncrypt | cbcDecrypt | ctrXcrypt => exact hi _ (by decide) h
  | subBytes | shiftRows | mixColumns | addRoundKey | invSubBytes | invShiftRows | invMixColumns =>
    exact hi _ (by decide) h

theorem setIv : Statement .setIv := plain (by decide) (by decide)

theorem ecbEncrypt : Statement .ecbEncrypt := plain (by decide) (by decide)

theorem ecbDecrypt : Statement .ecbDecrypt := plain (by decide) (by decide)

theorem cbcEncrypt : Statement .cbcEncrypt := plain (by decide) (by decide)

theorem cbcDecrypt : Statement .cbcDecrypt := plain (by decide) (by decide)

theorem ctrXcrypt : Statement .ctrXcrypt := plain (by decide) (by decide)

theorem subBytes : Statement .subBytes := plain (by decide) (by decide)

theorem shiftRows : Statement .shiftRows := plain (by decide) (by decide)

theorem mixColumns : Statement .mixColumns := plain (by decide) (by decide)

theorem addRoundKey : Statement .addRoundKey := plain (by decide) (by decide)

theorem invSubBytes : Statement .invSubBytes := plain (by decide) (by decide)

theorem invShiftRows : Statement .invShiftRows := plain (by decide) (by decide)

theorem invMixColumns : Statement .invMixColumns := plain (by decide) (by decide)

end Sys2Proof.Laws.Unambiguous
end

