-- ==== Sys2Proof/Laws/Step.lean ====
section
/-! SUPPORT. What one step can do, said once: the cases of `step`, and the cases of a host access. -/

namespace Sys2Proof.Machine

/-- An idle engine stays as it is. -/
theorem step_idle {s : State} (hu : s.uop = none) (hh : s.host = []) : step s = .next s := by simp [step, fetch, hu, hh]

/-- A used micro-operation code runs its instruction, and the port is empty. -/
theorem step_uop {s : State} {c : BitVec 4} {i : Instr} (hu : s.uop = some c) (hd : decode (.uop c) = .instr i) :
    step s = exec i { s with uop := none } := by
  have hd : decodeUop c = .instr i := hd
  simp [step, fetch, hu, microOpTask, hd]

/-- A code that is not used stops. -/
theorem step_uop_unused {s : State} {c : BitVec 4} {why : Reject} (hu : s.uop = some c)
    (hd : decode (.uop c) = .reject why) : step s = .refused .unusedMicroOp := by
  have hd : decodeUop c = .reject why := hd
  simp [step, fetch, hu, microOpTask, hd]

/-- A write of `CMD` with a legal word runs its instruction. -/
theorem step_command {s : State} {v : Nat} {rest : List HostAction} {i : Instr} (hs : BetweenCommands s)
    (hh : s.host = .write .cmd v :: rest) (hd : decode (.cmd (BitVec.ofNat 8 v)) = .instr i) :
    step s = exec i { s with host := rest } := by
  have hd : decodeCmd (BitVec.ofNat 8 v) = .instr i := hd
  simp [step, fetch, hs.1, hs.2, hh, commandTask, hd]

/-- A write of `CMD` with an illegal word reports it. -/
theorem step_illegal {s : State} {v : Nat} {rest : List HostAction} {why : Reject} (hs : BetweenCommands s)
    (hh : s.host = .write .cmd v :: rest) (hd : decode (.cmd (BitVec.ofNat 8 v)) = .reject why) :
    step s = raise .illegalCmd { s with host := rest } := by
  have hd : decodeCmd (BitVec.ofNat 8 v) = .reject why := hd
  simp [step, fetch, hs.1, hs.2, hh, commandTask, hd]

/-- Any other host action is an access. -/
theorem step_access {s : State} {a : HostAction} {rest : List HostAction} (hu : s.uop = none) (hh : s.host = a :: rest)
    (ha : ∀ v, a ≠ .write .cmd v) : step s = hostAccess a { s with host := rest } := by
  cases a with
  | write r v => cases r <;> simp_all [step, fetch]
  | read | memWrite | memRead | reset => simp_all [step, fetch]

/-- A host read between commands. -/
theorem step_read {s : State} (hs : BetweenCommands s) (r : HostReg) (rest : List HostAction) :
    step { s with host := .read r :: rest } = .next (readReg r { s with host := rest }) := by
  simp [step, fetch, hs.1, hs.2, hostAccess]

/-- A host write of a register other than `CMD` between commands. -/
theorem step_write {s : State} (hs : BetweenCommands s) {r : HostReg} (hr : r ≠ .cmd) (v : Nat)
    (rest : List HostAction) :
    step { s with host := .write r v :: rest } = .next (writeReg r v { s with host := rest }) := by
  cases r <;> simp_all [step, fetch, hostAccess]

/-- Everything a step can do. -/
theorem step_cases (s : State) :
    (s.uop = none ∧ s.host = [] ∧ (fetch s).1 = .idle ∧ step s = .next s) ∨
    (∃ c i, s.uop = some c ∧ decode (.uop c) = .instr i ∧ (fetch s).1 = .run i ∧ step s = exec i { s with uop := none }) ∨
    (∃ c, s.uop = some c ∧ (fetch s).1 = .stop .unusedMicroOp ∧ step s = .refused .unusedMicroOp) ∨
    (s.uop = none ∧ s.busy = true ∧ ∃ v rest, s.host = .write .cmd v :: rest ∧ step s = .refused .hostDuringCommand) ∨
    (∃ v rest i, s.uop = none ∧ s.busy = false ∧ s.host = .write .cmd v :: rest ∧
      decode (.cmd (BitVec.ofNat 8 v)) = .instr i ∧ (fetch s).1 = .run i ∧ step s = exec i { s with host := rest }) ∨
    (∃ v rest, s.uop = none ∧ s.busy = false ∧ s.host = .write .cmd v :: rest ∧ (fetch s).1 = .illegalCommand ∧
      step s = raise .illegalCmd { s with host := rest }) ∨
    (∃ a rest, s.uop = none ∧ s.host = a :: rest ∧ (∀ v, a ≠ .write .cmd v) ∧ (fetch s).1 = .access a ∧
      step s = hostAccess a { s with host := rest }) := by
  rcases Option.eq_none_or_eq_some s.uop with hu | ⟨c, hu⟩
  · obtain hh | ⟨a, rest, hh⟩ : s.host = [] ∨ ∃ a rest, s.host = a :: rest := by cases s.host <;> simp
    · exact .inl ⟨hu, hh, by simp [fetch, hu, hh], step_idle hu hh⟩
    · by_cases ha : ∃ v, a = .write .cmd v
      · obtain ⟨v, rfl⟩ := ha
        rcases Bool.eq_false_or_eq_true s.busy with hb | hb
        · exact .inr (.inr (.inr (.inl ⟨hu, hb, v, rest, hh, by simp [step, fetch, hu, hh, commandTask, hb]⟩)))
        · cases hd : decodeCmd (BitVec.ofNat 8 v) with
          | instr i =>
            exact .inr (.inr (.inr (.inr (.inl ⟨v, rest, i, hu, hb, hh, hd,
              by simp [fetch, hu, hh, commandTask, hb, hd], step_command ⟨hb, hu⟩ hh hd⟩))))
          | reject why =>
            exact .inr (.inr (.inr (.inr (.inr (.inl ⟨v, rest, hu, hb, hh,
              by simp [fetch, hu, hh, commandTask, hb, hd], step_illegal ⟨hb, hu⟩ hh hd⟩)))))
      · have ha : ∀ v, a ≠ .write .cmd v := fun v hv => ha ⟨v, hv⟩
        refine .inr (.inr (.inr (.inr (.inr (.inr ⟨a, rest, hu, hh, ha, ?_, step_access hu hh ha⟩)))))
        cases a with
        | write r v => cases r <;> simp_all [fetch]
        | read | memWrite | memRead | reset => simp_all [fetch]
  · cases hd : decodeUop c with
    | instr i => exact .inr (.inl ⟨c, i, hu, hd, by simp [fetch, hu, microOpTask, hd], step_uop hu hd⟩)
    | reject why => exact .inr (.inr (.inl ⟨c, hu, by simp [fetch, hu, microOpTask, hd], step_uop_unused hu hd⟩))

/-- Everything a host access of memory can do: an address that does not exist, no plain memory, or the access. -/
theorem hostMemory_cases (a : Nat) (done s : State) :
    (2 ^ s.platform.aw ≤ a ∧ hostMemory a done s = .fault .addressOutsideMemory) ∨
    (a < 2 ^ s.platform.aw ∧ plainByte s.platform a = false ∧ hostMemory a done s = .refused .notPlainMemory) ∨
    (a < 2 ^ s.platform.aw ∧ plainByte s.platform a = true ∧ hostMemory a done s = .next done) := by
  unfold hostMemory
  by_cases h : 2 ^ s.platform.aw ≤ a
  · simp [h]
  · cases hp : plainByte s.platform a <;> simp [h, Nat.lt_of_not_le h]

/-- A host access that gives a next state is one of five moves. -/
theorem hostAccess_next {a : HostAction} {s t : State} (h : hostAccess a s = .next t) :
    (∃ r v, a = .write r v ∧ t = writeReg r v s) ∨ (∃ r, a = .read r ∧ t = readReg r s) ∨
    (∃ x b, a = .memWrite x b ∧ x < 2 ^ s.platform.aw ∧ t = { s with mem := writeByte s.mem x b }) ∨
    (∃ x, a = .memRead x ∧ t = { s with hostData := some (readByte s.mem x).toNat }) ∨
    (a = .reset ∧ t = platformReset s) := by
  unfold hostAccess at h
  split at h
  · cases h
  · cases a with
    | write r v => exact .inl ⟨r, v, rfl, (Host.Outcome.next.inj h).symm⟩
    | read r => exact .inr (.inl ⟨r, rfl, (Host.Outcome.next.inj h).symm⟩)
    | memWrite x b =>
      rcases hostMemory_cases x { s with mem := writeByte s.mem x b } s with ⟨-, k⟩ | ⟨-, -, k⟩ | ⟨hx, -, k⟩ <;>
        dsimp only at h <;> rw [k] at h
      · cases h
      · cases h
      · exact .inr (.inr (.inl ⟨x, b, rfl, hx, (Host.Outcome.next.inj h).symm⟩))
    | memRead x =>
      rcases hostMemory_cases x { s with hostData := some (readByte s.mem x).toNat } s with ⟨-, k⟩ | ⟨-, -, k⟩ | ⟨-, -, k⟩ <;>
        dsimp only at h <;> rw [k] at h
      · cases h
      · cases h
      · exact .inr (.inr (.inr (.inl ⟨x, rfl, (Host.Outcome.next.inj h).symm⟩)))
    | reset => exact .inr (.inr (.inr (.inr ⟨rfl, (Host.Outcome.next.inj h).symm⟩)))

/-- A host write of a register changes operand registers and the record of writes only. -/
theorem writeReg_frame (r : HostReg) (v : Nat) (s : State) :
    writeReg r v s = { s with
      keyLen := (writeReg r v s).keyLen, ivLen := (writeReg r v s).ivLen, bufAddr := (writeReg r v s).bufAddr,
      bufLen := (writeReg r v s).bufLen, keyIn := (writeReg r v s).keyIn, ivIn := (writeReg r v s).ivIn,
      written := (writeReg r v s).written } := by
  cases r <;> simp only [writeReg]

/-- A host read of a register changes what the host got and the count of draws only. -/
theorem readReg_frame (r : HostReg) (s : State) :
    readReg r s = { s with hostData := (readReg r s).hostData, draws := (readReg r s).draws } := by
  unfold readReg; split <;> simp only

/-- The bytes a reset in mid-command leaves in memory lie in the buffer, and the form is kept. -/
theorem memWf_scramble {m : List Host.Cell} (a draw place n : Nat) (h : MemWf m) : MemWf (scramble m a draw place n) := by
  induction n generalizing m a place with
  | zero => exact h
  | succ n ih => exact ih _ _ (memWf_writeByte a _ h)

theorem mem_scramble {m : List Host.Cell} {a draw place n : Nat} {c : Host.Cell} (h : c ∈ scramble m a draw place n) :
    (a ≤ c.1 ∧ c.1 < a + n) ∨ c ∈ m := by
  induction n generalizing m a place with
  | zero => exact .inr h
  | succ n ih =>
    rcases ih h with hin | hm
    · left; omega
    · rcases mem_writeByte hm with hc | hm
      · left; omega
      · exact .inr hm

end Sys2Proof.Machine
end

