-- ==== Sys2Proof/Tests/Slice0.lean ====
section
/-! SUPPORT. The model's own tests, with results taken from the spec's tables and vectors (`95_test_vectors.md`,
`30_encoding.md` R65, R67), and a witness for the hypotheses of every statement. A test steps once on a small state. -/

namespace Sys2Proof.Tests
open Sys2Proof Sys2Proof.Machine

/-! Helpers. -/

/-- The byte string of `len` bytes a hexadecimal number writes out, first byte leftmost (`00_scope.md` R8). -/
def bytes (len n : Nat) : List Byte := (List.range len).map fun j => BitVec.ofNat 8 (n >>> (8 * (len - 1 - j)))

/-- A block written the same way. -/
def block (n : Nat) : Block := Vector.ofFn fun j => BitVec.ofNat 8 (n >>> (8 * (15 - j.val)))

/-- The key of V1 to V3. -/
def key1 : List Byte := bytes 16 0x2b7e151628aed2a6abf7158809cf4f3c

/-- The plaintext block of V1 to V3. -/
def plain1 : Block := block 0x6bc1bee22e409f96e93d7e117393172a

/-- The IV of V2. -/
def iv1 : Block := block 0x000102030405060708090a0b0c0d0e0f

/-- After reset with the key and IV operands of `45_context.md` R140's example. -/
def loaded : State :=
  { State.reset with
    keyIn := Vector.ofFn fun j => key1.getD j.val 0
    keyLen := 16
    ivIn := iv1
    ivLen := 16 }

/-- A context for `key1` with a chain block, and a buffer of `len` bytes at 0x1000. -/
def ready (chain : Block) (len : Nat) : State :=
  { loaded with
    valid := true
    rks := scheduleStorage key1 .aes128 0
    chain := chain
    bufAddr := 0x1000
    bufLen := len }

/-- `ready` with one block in memory at 0x1000. -/
def holding (chain data : Block) : State := { ready chain 16 with mem := writeBlock [] 0x1000 data }

/-- A context without any schedule, for tests that run no block. -/
def bare (len : Nat) : State := { loaded with valid := true, chain := iv1, bufAddr := 0x1000, bufLen := len }

/-- The error a next state reports. -/
def errOf : Outcome → Option Err
  | .next t => some t.err
  | .fault _ => none
  | .refused _ => none

/-- The bytes a next state has in memory. -/
def memOf (a n : Nat) : Outcome → List Byte
  | .next t => memRead t.mem a n
  | .fault _ => []
  | .refused _ => []

/-- The chaining field of a next state. -/
def chainOf : Outcome → List Byte
  | .next t => t.chain.toList
  | .fault _ => []
  | .refused _ => []

/-- The scratch `STATE` of a next state. -/
def stateOf : Outcome → List Byte
  | .next t => t.st.toList
  | .fault _ => []
  | .refused _ => []

/-- What a host read got. -/
def dataOf : Outcome → Option Nat
  | .next t => t.hostData
  | .fault _ => none
  | .refused _ => none

/-! WellFormed: an ill-formed term for each check. -/

theorem test_wf_reserved_variant : wellFormed (.new 3 0) = false := by decide
theorem test_wf_reserved_mode : wellFormed (.new 0 3) = false := by decide
theorem test_wf_legal : wellFormed (.new 2 2) = true := by decide

/-! Decoding: words written out bit by bit from `30_encoding.md` R60 (`Z MODE VARIANT OP`) and R67 (`INV 0 FN`). -/

theorem test_decode_new : decode (.cmd 0b0_10_01_001) = .instr (.new 1 2) := by decide
theorem test_decode_set_iv : decode (.cmd 0b0_00_00_010) = .instr .setIv := by decide
theorem test_decode_ecb_encrypt : decode (.cmd 0b0_00_00_011) = .instr .ecbEncrypt := by decide
theorem test_decode_ecb_decrypt : decode (.cmd 0b0_00_00_100) = .instr .ecbDecrypt := by decide
theorem test_decode_cbc_encrypt : decode (.cmd 0b0_00_00_101) = .instr .cbcEncrypt := by decide
theorem test_decode_cbc_decrypt : decode (.cmd 0b0_00_00_110) = .instr .cbcDecrypt := by decide
theorem test_decode_ctr_xcrypt : decode (.cmd 0b0_00_00_111) = .instr .ctrXcrypt := by decide
theorem test_decode_subbytes : decode (.uop 0b0_0_00) = .instr .subBytes := by decide
theorem test_decode_shiftrows : decode (.uop 0b0_0_01) = .instr .shiftRows := by decide
theorem test_decode_mixcolumns : decode (.uop 0b0_0_10) = .instr .mixColumns := by decide
theorem test_decode_addroundkey : decode (.uop 0b0_0_11) = .instr .addRoundKey := by decide
theorem test_decode_invsubbytes : decode (.uop 0b1_0_00) = .instr .invSubBytes := by decide
theorem test_decode_invshiftrows : decode (.uop 0b1_0_01) = .instr .invShiftRows := by decide
theorem test_decode_invmixcolumns : decode (.uop 0b1_0_10) = .instr .invMixColumns := by decide

/-- The 15 legal values of R65, and no other of the 256. -/
theorem test_decode_legal_words : ((List.range 256).filter fun w => (decodeTableWord 8 w).isSome) =
    [0x01, 0x02, 0x03, 0x04, 0x05, 0x06, 0x07, 0x09, 0x11, 0x21, 0x29, 0x31, 0x41, 0x49, 0x51] := by decide +kernel

/-- The seven codes of R67, and no other of the 16. -/
theorem test_decode_uop_codes : ((List.range 16).filter fun w => (decodeTableWord 4 w).isSome) =
    [0x0, 0x1, 0x2, 0x3, 0x8, 0x9, 0xa] := by decide

/-- Illegal words of `95_test_vectors.md` section 9. -/
theorem test_decode_illegal :
    decode (.cmd 0x00) = .reject .opZero ∧ decode (.cmd 0x08) = .reject .opZero ∧
    decode (.cmd 0x0b) = .reject .strayField ∧ decode (.cmd 0x23) = .reject .strayField ∧
    decode (.cmd 0x19) = .reject .reservedVariant ∧ decode (.cmd 0x61) = .reject .reservedMode ∧
    decode (.cmd 0x83) = .reject .bit7Set ∧ decode (.cmd 0xff) = .reject .bit7Set := by decide

/-! Field arithmetic and tables (`95_test_vectors.md` sections 2 and 3). -/

theorem test_xtime : [0x00, 0x57, 0x7f, 0x80, 0xae, 0x8e, 0xff].map xtime = [0x00, 0xae, 0xfe, 0x1b, 0x47, 0x07, 0xe5] := by
  decide

theorem test_gmul : [gmul 0x57 0x09, gmul 0x57 0x0b, gmul 0x57 0x0d, gmul 0x57 0x0e, gmul 0x57 0x13, gmul 0xff 0xff] =
    [0xd9, 0x77, 0x9e, 0x67, 0xfe, 0x13] := by decide

theorem test_sbox : [0x00, 0x10, 0x53, 0x7c, 0x80, 0xc9, 0xed, 0xff].map sbox =
    [0x63, 0xca, 0xed, 0x10, 0xcd, 0xdd, 0x55, 0x16] := by decide

theorem test_inv_sbox : [0x00, 0x10, 0x53, 0x7c, 0x80, 0xc9, 0xed, 0xff].map invSbox =
    [0x52, 0x7c, 0x50, 0x01, 0x3a, 0x12, 0x53, 0x7d] := by decide

theorem test_rcon : (List.range 10).map (fun j => rcon (j + 1)) =
    [0x01, 0x02, 0x04, 0x08, 0x10, 0x20, 0x40, 0x80, 0x1b, 0x36] := by decide

/-! Key schedule (`95_test_vectors.md` section 4): the last round key of each Variant. -/

theorem test_key_expand_128 : (keyExpand key1 .aes128).drop 160 = bytes 16 0xd014f9a8c9ee2589e13f0cc8b6630ca6 := by
  decide +kernel

theorem test_key_expand_192 : (keyExpand (bytes 24 0x8e73b0f7da0e6452c810f32b809079e562f8ead2522c6b7b) .aes192).drop 192 =
    bytes 16 0xe98ba06f448c773c8ecc720401002202 := by decide +kernel

theorem test_key_expand_256 : (keyExpand
    (bytes 32 0x603deb1015ca71be2b73aef0857d77811f352c073b6108d72d9810a30914dff4) .aes256).drop 224 =
    bytes 16 0xfe4890d1e6188d0b046df344706c631e := by decide +kernel

/-! Micro-operations (`95_test_vectors.md` section 5). -/

theorem test_subbytes : stateOf (exec .subBytes { State.reset with st := block 0x193de3bea0f4e22b9ac68d2ae9f84808 }) =
    bytes 16 0xd42711aee0bf98f1b8b45de51e415230 := by decide +kernel

theorem test_shiftrows : stateOf (exec .shiftRows { State.reset with st := iv1 }) =
    bytes 16 0x00050a0f04090e03080d02070c01060b := by decide +kernel

theorem test_mixcolumns : stateOf (exec .mixColumns { State.reset with st := block 0xdb135345f20a225c01000000d4bf5d30 }) =
    bytes 16 0x8e4da1bc9fdc589d02010103046681e5 := by decide +kernel

theorem test_addroundkey : stateOf (exec .addRoundKey
    { ready iv1 0 with rnd := 1, st := block 0x046681e5e0cb199a48f8d37a2806264c }) =
    bytes 16 0xa49c7ff2689f352b6b5bea43026a5049 := by decide +kernel

theorem test_addroundkey_last : stateOf (exec .addRoundKey { ready iv1 0 with rnd := 10 }) =
    bytes 16 0xd014f9a8c9ee2589e13f0cc8b6630ca6 := by decide +kernel

theorem test_invsubbytes : stateOf (exec .invSubBytes { State.reset with st := block 0xd42711aee0bf98f1b8b45de51e415230 }) =
    bytes 16 0x193de3bea0f4e22b9ac68d2ae9f84808 := by decide +kernel

theorem test_invshiftrows : stateOf (exec .invShiftRows { State.reset with st := iv1 }) =
    bytes 16 0x000d0a0704010e0b0805020f0c090603 := by decide +kernel

theorem test_invmixcolumns : stateOf (exec .invMixColumns
    { State.reset with st := block 0xdb1353450001000000000001d4bf5d30 }) =
    bytes 16 0x32a41d550b0e090d090d0b0e265ca3df := by decide +kernel

/-! Counter (`95_test_vectors.md` V5, `44_mode_driver.md` R126). -/

theorem test_ctr_inc_wraps : ctrInc (block 0xffffffffffffffffffffffffffffffff) = block 0 := by decide +kernel
theorem test_ctr_inc_carry : ctrInc (block 0xf0f1f2f3f4f5f6f7f8f9fafbfcfdfeff) = block 0xf0f1f2f3f4f5f6f7f8f9fafbfcfdff00 := by
  decide +kernel

/-! Commands: V1 to V3, the example of R140, the error cases of `95_test_vectors.md` section 9. -/

theorem test_ecb_encrypt : memOf 0x1000 16 (exec .ecbEncrypt (holding iv1 plain1)) =
    bytes 16 0x3ad77bb40d7a3660a89ecaf32466ef97 := by decide +kernel

theorem test_ecb_decrypt : memOf 0x1000 16
    (exec .ecbDecrypt (holding iv1 (block 0x3ad77bb40d7a3660a89ecaf32466ef97))) =
    bytes 16 0x6bc1bee22e409f96e93d7e117393172a := by decide +kernel

theorem test_cbc_encrypt : chainOf (exec .cbcEncrypt (holding iv1 plain1)) =
    bytes 16 0x7649abac8119b246cee98e9b12e9197d := by decide +kernel

theorem test_cbc_decrypt : memOf 0x1000 16
    (exec .cbcDecrypt (holding iv1 (block 0x7649abac8119b246cee98e9b12e9197d))) =
    bytes 16 0x6bc1bee22e409f96e93d7e117393172a := by decide +kernel

theorem test_ctr_xcrypt : memOf 0x1000 16
    (exec .ctrXcrypt (holding (block 0xf0f1f2f3f4f5f6f7f8f9fafbfcfdfeff) plain1)) =
    bytes 16 0x874d6191b620e3261bef6864990db6ce := by decide +kernel

/-- A short last chunk: the byte after the buffer is untouched, and the counter moves on by one (R127). -/
theorem test_ctr_partial :
    memOf 0x1001 1 (exec .ctrXcrypt { bare 1 with mem := [(0x1001, 0xc1)] }) = [0xc1] ∧
    chainOf (exec .ctrXcrypt { bare 1 with chain := block 0xf0f1f2f3f4f5f6f7f8f9fafbfcfdfeff }) =
      bytes 16 0xf0f1f2f3f4f5f6f7f8f9fafbfcfdff00 := by decide +kernel

/-- The example of R140: `CTX_CFG = 0x09`, `CHAIN` the IV, no error. -/
theorem test_new : (match exec (.new 0 1) loaded with
    | .next t => (ctxCfgByte t, t.chain.toList, t.err, (t.rks.toList.drop 160).take 16)
    | .fault _ | .refused _ => (0, [], .illegalCmd, [])) =
    (0x09, iv1.toList, .ok, bytes 16 0xd014f9a8c9ee2589e13f0cc8b6630ca6) := by decide +kernel

/-- E5 to E13: NEW with wrong lengths. -/
theorem test_new_errors :
    errOf (exec (.new 0 0) { loaded with keyLen := 17 }) = some .keyLen ∧
    errOf (exec (.new 1 0) loaded) = some .keyLen ∧
    errOf (exec (.new 0 1) { loaded with keyLen := 32 }) = some .keyLen ∧
    errOf (exec (.new 0 0) { loaded with ivLen := 15 }) = some .ivLen ∧
    errOf (exec (.new 0 2) { loaded with ivLen := 17 }) = some .ivLen ∧
    errOf (exec (.new 0 0) { loaded with keyLen := 15, ivLen := 15 }) = some .keyLen ∧
    errOf (exec (.new 3 0) { loaded with keyLen := 15 }) = some .illegalCmd := by decide

/-- E1, E14, and the example of R141. -/
theorem test_set_iv :
    errOf (exec .setIv loaded) = some .noContext ∧ errOf (exec .setIv { bare 0 with ivLen := 15 }) = some .ivLen ∧
    chainOf (exec .setIv { bare 0 with ivIn := block 0xf0f1f2f3f4f5f6f7f8f9fafbfcfdfeff }) =
      bytes 16 0xf0f1f2f3f4f5f6f7f8f9fafbfcfdfeff := by decide +kernel

/-- E2 to E4: no context comes before the length. -/
theorem test_no_context :
    errOf (exec .ecbEncrypt { loaded with bufLen := 16 }) = some .noContext ∧
    errOf (exec .cbcEncrypt { loaded with bufLen := 17 }) = some .noContext ∧
    errOf (exec .ctrXcrypt loaded) = some .noContext := by decide

/-- E15, E16: a length that is no multiple of 16. -/
theorem test_buf_len :
    errOf (exec .ecbEncrypt (bare 17)) = some .bufLen ∧ errOf (exec .ecbDecrypt (bare 15)) = some .bufLen ∧
    errOf (exec .cbcEncrypt (bare 1)) = some .bufLen ∧
    errOf (exec .cbcDecrypt (bare (2 ^ 32 - 1))) = some .bufLen := by decide

/-- U6: a buffer that wraps the address space stops; at the very top of it it runs (R47). -/
theorem test_buffer_edges :
    bufferOk { bare 32 with bufAddr := 2 ^ 32 - 16 } = false ∧ bufferOk { bare 16 with bufAddr := 2 ^ 32 - 16 } = true ∧
    bufferOk { bare 0 with bufAddr := 2 ^ 32 - 1 } = true := by decide

/-! Host accesses and steps. -/

/-- An illegal word written to `CMD` (E19). -/
theorem test_step_illegal : errOf (step { State.reset with host := [.write .cmd 0x61] }) = some .illegalCmd := by decide

/-- The first step after reset runs the placed command: no context yet (E1). -/
theorem test_step_command : errOf (step (State.reset.withFetchWord 8 0x02)) = some .noContext := by decide

/-- The first step after reset runs the placed micro-operation: a zero State becomes sixteen bytes `63`. -/
theorem test_step_uop : stateOf (step (State.reset.withFetchWord 4 0x0)) = bytes 16 0x63636363636363636363636363636363 := by
  decide +kernel

/-- R11: `CTX_CFG` of AES256, CTR reads 0x15 (Program 3); R14: `STATUS` of ERR_BUF_LEN reads 3. -/
theorem test_read_status :
    dataOf (step { bare 0 with variant := .aes256, mode := .ctr, host := [.read .ctxCfg] }) = some 0x15 ∧
    dataOf (step { State.reset with err := .bufLen, host := [.read .status] }) = some 3 := by decide

/-- A byte the host stores is the byte it reads (R48). -/
theorem test_host_memory : dataOf (step { State.reset with mem := [(7, 0x5a)], host := [.memRead 7] }) = some 0x5a ∧
    memOf 7 2 (step { State.reset with host := [.memWrite 8 0x33] }) = [0x00, 0x33] := by decide

/-- The line notation (R68): `KEY` of two bytes and `NEW AES192, CBC`. -/
theorem test_assemble : assemble (.key [0xab, 0xcd]) =
      [.write (.keyIn 0) 0xab, .write (.keyIn 1) 0xcd, .write .keyLen 2] ∧
    assemble (.command (.new 1 1)) = [.write .cmd 0x29] := by decide

/-! Witnesses: for every statement of Certificates/Slice0/Obligations.lean with hypotheses, a state and operands that meet
all of them, for each clause at a boundary of its range. -/

/-- Every data command completes on a context with a buffer of whole blocks. -/
theorem completes_on {i : Instr} (hi : isData i = true) {s : State} (h : BlocksReady s) : ∃ t, exec i s = .next t :=
  ⟨_, exec_data_ready hi h.1 (fun _ => h.2.1) h.2.2⟩

theorem witness_IllegalCommandWordIsReported : BetweenCommands State.reset ∧
    ∀ w ∈ ([0x00, 0x08, 0x19, 0x61, 0x80, 0xff] : List (BitVec 8)),
      w ∉ ([0x01, 0x09, 0x11, 0x21, 0x29, 0x31, 0x41, 0x49, 0x51, 0x02, 0x03, 0x04, 0x05, 0x06, 0x07] : List (BitVec 8)) := by
  decide

theorem witness_StepRunsTheDecodedCommand : BetweenCommands State.reset ∧ decode (.cmd 0x01) = .instr (.new 0 0) ∧
    decode (.cmd 0x07) = .instr .ctrXcrypt := by decide

theorem witness_StepRunsTheDecodedMicroOp : decode (.uop 0x0) = .instr .subBytes ∧
    decode (.uop 0xa) = .instr .invMixColumns := by decide

theorem witness_UnusedMicroOpStops : ∀ c ∈ ([0x4, 0x7, 0xb, 0xf] : List (BitVec 4)),
    c ∉ ([0x0, 0x1, 0x2, 0x3, 0x8, 0x9, 0xa] : List (BitVec 4)) := by decide

/-- One key of each length; for AES256 an index of each of the three cases, and the first and last index of AES128. -/
theorem witness_KeyExpandFollowsItsRecurrence :
    key1.length = 4 * nkOf .aes128 ∧ (bytes 24 0).length = 4 * nkOf .aes192 ∧ (bytes 32 0).length = 4 * nkOf .aes256 ∧
    (nkOf .aes256 ≤ 56 ∧ 56 < 4 * (nrOf .aes256 + 1) ∧ 56 % nkOf .aes256 = 0) ∧
    (52 < 4 * (nrOf .aes256 + 1) ∧ nkOf .aes256 = 8 ∧ 52 % nkOf .aes256 = 4) ∧
    (59 < 4 * (nrOf .aes256 + 1) ∧ 59 % nkOf .aes256 = 3) ∧
    (nkOf .aes128 ≤ 4 ∧ 43 < 4 * (nrOf .aes128 + 1)) := by decide

theorem witness_AddRoundKeyMicroOp : ({ State.reset with rnd := 10 } : State).rnd ≤ nrOf State.reset.variant ∧
    nrOf State.reset.variant < ({ State.reset with rnd := 11 } : State).rnd := by decide

theorem witness_NewBuildsTheContext :
    variantOfCode 0 = some .aes128 ∧ modeOfCode 2 = some .ctr ∧ loaded.keyLen.toNat = 4 * nkOf .aes128 ∧
    loaded.ivLen.toNat = 16 ∧ variantOfCode 2 = some .aes256 ∧
    ({ loaded with keyLen := 32 } : State).keyLen.toNat = 4 * nkOf .aes256 := by decide

theorem witness_NewReportsKeyLength :
    wellFormed (.new 0 0) = true ∧ ({ loaded with keyLen := 17 } : State).keyLen.toNat ≠ 16 ∧
    wellFormed (.new 1 2) = true ∧ loaded.keyLen.toNat ≠ 24 ∧
    wellFormed (.new 2 1) = true ∧ ({ loaded with keyLen := 255 } : State).keyLen.toNat ≠ 32 := by decide

theorem witness_WrongIvLengthIsReported :
    wellFormed (.new 0 2) = true ∧ variantOfCode 0 = some .aes128 ∧ loaded.keyLen.toNat = 4 * nkOf .aes128 ∧
    ({ loaded with ivLen := 15 } : State).ivLen.toNat ≠ 16 ∧
    (bare 0).valid = true ∧ ({ bare 0 with ivLen := 17 } : State).ivLen.toNat ≠ 16 := by decide

theorem witness_NewWithReservedCodeIsIllegal : wellFormed (.new 3 0) = false ∧ wellFormed (.new 2 3) = false := by decide

theorem witness_SetIvReplacesChain : State.reset.valid = false ∧ (bare 0).valid = true ∧
    ({ bare 0 with ivLen := 15 } : State).ivLen.toNat ≠ 16 ∧ (bare 0).ivLen.toNat = 16 := by decide

theorem witness_NoContextIsReported : isData .ctrXcrypt = true ∧ State.reset.valid = false ∧
    exec (.new 3 0) State.reset = .next { State.reset with err := .illegalCmd } := ⟨rfl, rfl, rfl⟩

theorem witness_WrongBufferLengthIsReported :
    (needsBlocks .ecbEncrypt = true ∧ (bare 17).valid = true ∧ (bare 17).bufLen % 16 ≠ 0 ∧ (bare 1).bufLen % 16 ≠ 0) ∧
    (∃ t, exec .cbcDecrypt (bare 0) = .next t) ∧ (∃ t, exec .ctrXcrypt (bare 16) = .next t) :=
  ⟨by decide, completes_on rfl (by decide), completes_on rfl (by decide)⟩

theorem witness_ErrorPriority : isCommand .setIv = true ∧
    exec .setIv State.reset = .next { State.reset with err := .noContext } ∧ (∃ t, exec .ecbEncrypt (bare 16) = .next t) :=
  ⟨rfl, rfl, completes_on rfl (by decide)⟩

theorem witness_FailedCommandChangesOnlyStatus : isCommand .setIv = true ∧
    exec .setIv State.reset = .next { State.reset with err := .noContext } ∧ Err.noContext ≠ Err.ok :=
  ⟨rfl, rfl, by decide⟩

/-- A buffer that ends one byte past the top, and one whose last byte is no plain memory. -/
theorem witness_IllegalBufferStops :
    reportedErr .ecbEncrypt { bare 16 with bufAddr := 2 ^ 32 - 15 } = .ok ∧
    2 ^ (bare 16).platform.aw < 2 ^ 32 - 15 + 16 ∧
    reportedErr .ctrXcrypt { bare 1 with platform := { aw := 16, plain := [{ base := 0, size := 0x1000 }] } } = .ok ∧
    plainByte { aw := 16, plain := [{ base := 0, size := 0x1000 }] } ((bare 1).bufAddr + 0) = false := by decide

theorem witness_ErrorIsNotSticky : isCommand .ecbEncrypt = true ∧ isCommand (.new 2 2) = true := by decide

/-- A whole-block buffer, an empty one, and one that ends at the very top of the address space: the results of the ECB and
CBC commands, and their round trip. -/
theorem witness_BlocksReady : BlocksReady (bare 32) ∧ BlocksReady (bare 0) ∧
    BlocksReady { bare 16 with bufAddr := 2 ^ 32 - 16 } := by decide

/-- The same for CTR_XCRYPT, with a partial chunk. -/
theorem witness_ChunksReady : ChunksReady (bare 33) ∧ ChunksReady (bare 0) ∧
    ChunksReady { bare 1 with bufAddr := 2 ^ 32 - 1 } := by decide

theorem witness_EmptyBufferSucceeds : isData .cbcEncrypt = true ∧ (bare 0).valid = true ∧ (bare 0).bufLen = 0 := by decide

theorem witness_ModeDoesNotGate : isData .ecbEncrypt = true ∧ isData .ctrXcrypt = true := by decide

theorem witness_EcbRoundTrip : BlocksReady (bare 32) ∧ MemoryInv (bare 32) := by decide

theorem witness_CbcRoundTrip :
    BlocksReady (bare 32) ∧ MemoryInv (bare 32) ∧ (bare 32).ivLen.toNat = 16 ∧ (bare 32).chain = (bare 32).ivIn := by decide

theorem witness_CtrRoundTrip :
    ChunksReady (bare 33) ∧ MemoryInv (bare 33) ∧ (bare 33).ivLen.toNat = 16 ∧ (bare 33).chain = (bare 33).ivIn := by decide

theorem witness_CbcStreamContinues :
    BlocksReady (bare 48) ∧ MemoryInv (bare 48) ∧ (bare 48).bufLen = 16 + 32 ∧ (bare 48).bufLen = 0 + 48 ∧ 16 % 16 = 0 := by
  decide

theorem witness_CtrStreamContinues :
    ChunksReady (bare 37) ∧ MemoryInv (bare 37) ∧ (bare 37).bufLen = 16 + 21 ∧ (bare 37).bufLen = 32 + 5 ∧ 32 % 16 = 0 := by
  decide

theorem witness_InstructionsKeepOperands : (∃ t, exec .cbcEncrypt (bare 16) = .next t) ∧
    exec .setIv State.reset = .next { State.reset with err := .noContext } :=
  ⟨completes_on rfl (by decide), rfl⟩

/-- A step of a command, of a reset, and of an idle engine. -/
theorem witness_step : (∃ t, step { bare 16 with host := [.write .cmd 0x05] } = .next t) ∧
    (∃ t, step { bare 16 with host := [.reset] } = .next t) ∧ step State.reset = .next State.reset :=
  ⟨completes_on (i := .cbcEncrypt) (s := bare 16) rfl (by decide), ⟨_, rfl⟩, rfl⟩

/-- A host that has written the buffer operands, and no key, asks for CBC_ENCRYPT. -/
def bufferWritten : State :=
  { bare 16 with
    written := { Written.nothing with bufAddr := true, bufLen := true }
    host := [.write .cmd 0x05] }

/-- A host that has written a 16-byte key and an IV asks for NEW; the last 16 bytes of `KEY_IN` are not written. -/
def keyWritten : State :=
  { loaded with
    written :=
      { Written.nothing with
        keyLen := true
        ivLen := true
        keyIn := Vector.ofFn fun j => decide (j.val < 16)
        ivIn := Vector.replicate 16 true }
    host := [.write .cmd 0x01] }

/-- A data command with another key, and a NEW with another byte 16 of `KEY_IN` and another `BUF_LEN`. -/
theorem witness_DataCommandsReadBufferOperandsOnly :
    isData .cbcEncrypt = true ∧
    ((fetch bufferWritten).1 = .run .cbcEncrypt ∧ operandsWritten .cbcEncrypt bufferWritten = true ∧
      stepInSpec bufferWritten = true ∧ AgreeWhereWritten bufferWritten { bufferWritten with keyLen := 3, ivIn := plain1 }) ∧
    ((fetch keyWritten).1 = .run (.new 0 0) ∧ operandsWritten (.new 0 0) keyWritten = true ∧
      stepInSpec keyWritten = true ∧
      AgreeWhereWritten keyWritten { keyWritten with keyIn := keyWritten.keyIn.set 16 0xff, bufLen := 7 }) := by
  refine ⟨rfl, ⟨by decide, by decide, by decide +kernel, ⟨rfl, ?_, ?_, ?_, ?_, ?_, ?_⟩⟩,
    ⟨by decide, by decide, by decide +kernel, ⟨rfl, ?_, ?_, ?_, ?_, ?_, ?_⟩⟩⟩ <;> decide +kernel

/-- A record the other way: a byte of the key that NEW reads is not written, and the step is outside the spec. -/
theorem test_unwritten_key_byte : operandsWritten (.new 2 0) { keyWritten with keyLen := 32 } = false ∧
    stepInSpec { State.reset with host := [.read .keyLen] } = false := by decide +kernel

theorem witness_OpenRegisterReadCompletes : BetweenCommands State.reset ∧ State.reset.valid = false := by decide

theorem witness_MemoryReturnsLastWrite : BetweenCommands State.reset ∧ 2 ^ 32 - 1 < 2 ^ State.reset.platform.aw ∧
    plainByte State.reset.platform 0 = true ∧ plainByte State.reset.platform (2 ^ 32 - 1) = true := by decide

/-- The last byte of the shortest and of the longest schedule. -/
theorem witness_RegisterReadReturnsTheValue : BetweenCommands (bare 0) ∧ (bare 0).valid = true ∧
    175 < 16 * (nrOf (bare 0).variant + 1) ∧
    239 < 16 * (nrOf ({ bare 0 with variant := .aes256 } : State).variant + 1) := by decide

theorem witness_BetweenCommands : BetweenCommands State.reset ∧ BetweenCommands (bare 16) := by decide

theorem witness_ReadOnlyWritesAreIgnored : BetweenCommands State.reset ∧ regNumber .status ∈ [1, 2, 9, 10] ∧
    regNumber .ctxCfg ∈ [1, 2, 9, 10] ∧ regNumber (.chain 15) ∈ [1, 2, 9, 10] ∧ regNumber (.rks 239) ∈ [1, 2, 9, 10] := by
  decide

theorem witness_StepKeepsMemoryAndRanges : Inv (bare 16) ∧ Inv { State.reset with mem := [(2 ^ 32 - 1, 0x5a)] } := by decide

/-- A context with the schedule of `key1`. -/
theorem witness_StepKeepsTheSchedule : ScheduleInv (ready iv1 16) ∧ (ready iv1 16).valid = true :=
  ⟨fun _ => ⟨key1, by decide +kernel⟩, rfl⟩

end Sys2Proof.Tests
end

section
/-! Facts about the words and the key schedule (`41_key_schedule.md`), up to the schedule's recurrence (R93). -/

namespace Sys2Proof.Proofs
open Sys2Proof Sys2Proof.Machine

/-! Words, by their four bytes. -/

theorem ofFn_four (f : Fin 4 → Byte) : Vector.ofFn f = #v[f 0, f 1, f 2, f 3] := by
  refine Vector.ext fun k hk => ?_
  rw [Vector.getElem_ofFn]
  interval_cases k <;> rfl

theorem wordOf_eq (bytes : List Byte) (i : Nat) : wordOf bytes i =
    #v[bytes.getD (4 * i) 0, bytes.getD (4 * i + 1) 0, bytes.getD (4 * i + 2) 0, bytes.getD (4 * i + 3) 0] :=
  ofFn_four _

theorem subWord_eq (w : Word) : subWord w = #v[sbox w[0], sbox w[1], sbox w[2], sbox w[3]] := ofFn_four _

theorem xorWord_eq (w u : Word) :
    xorWord w u = #v[w[0] ^^^ u[0], w[1] ^^^ u[1], w[2] ^^^ u[2], w[3] ^^^ u[3]] := ofFn_four _

@[simp] theorem getElem_wordOf (bytes : List Byte) (i k : Nat) (hk : k < 4) :
    (wordOf bytes i)[k] = bytes.getD (4 * i + k) 0 := by simp [wordOf]

/-! Byte strings, by their words. -/

/-- The word of four zero bytes, which the model reads beyond the end of a list of words. -/
def zeroWord : Word := Vector.replicate 4 0

/-- The bytes of a list of words, in order (R90): how `keyExpand` writes the schedule out. -/
def bytesOf (ws : List Word) : List Byte := ws.flatMap fun w => [w[0], w[1], w[2], w[3]]

theorem keyExpand_eq_bytesOf (key : List Byte) (v : Variant) : keyExpand key v = bytesOf (keyExpandWords key v) := by
  rw [keyExpand, bytesOf]

@[simp] theorem length_bytesOf (ws : List Word) : (bytesOf ws).length = 4 * ws.length := by
  simp [bytesOf, Nat.mul_comm]

/-- Word `i` of the bytes of a list of words is its entry `i`. -/
@[simp] theorem wordOf_bytesOf (ws : List Word) (i : Nat) : wordOf (bytesOf ws) i = ws.getD i zeroWord := by
  induction ws generalizing i with
  | nil => exact wordOf_eq [] i
  | cons w ws ih =>
    have hcons : bytesOf (w :: ws) = w[0] :: w[1] :: w[2] :: w[3] :: bytesOf ws := rfl
    cases i with
    | zero =>
      refine Vector.ext fun k hk => ?_
      rw [getElem_wordOf _ _ _ hk, hcons]
      interval_cases k <;> rfl
    | succ i =>
      rw [List.getD_cons_succ, ← ih]
      refine Vector.ext fun k hk => ?_
      rw [getElem_wordOf _ _ _ hk, getElem_wordOf _ _ _ hk, hcons, show 4 * (i + 1) + k = 4 * i + k + 4 by omega]
      rfl

theorem wordOf_take {bytes : List Byte} {n i : Nat} (hi : i < n) : wordOf (bytes.take (4 * n)) i = wordOf bytes i := by
  refine Vector.ext fun k hk => ?_
  rw [getElem_wordOf _ _ _ hk, getElem_wordOf _ _ _ hk, List.getD_eq_getElem?_getD, List.getD_eq_getElem?_getD,
    List.getElem?_take_of_lt (by omega)]

/-- A byte string of `n` words is determined by its words. -/
theorem bytes_ext_of_wordOf {a b : List Byte} {n : Nat} (ha : a.length = 4 * n) (hb : b.length = 4 * n)
    (h : ∀ i, i < n → wordOf a i = wordOf b i) : a = b := by
  refine List.ext_getElem (ha.trans hb.symm) fun j hja hjb => ?_
  have hk : j % 4 < 4 := Nat.mod_lt _ (by omega)
  have hword := congrArg (fun w : Word => w[j % 4]) (h (j / 4) (by omega))
  simpa [Nat.div_add_mod, hja, hjb] using hword

/-! The loop of `KeyExpand` (R93). -/

/-- The word recurrence of R93: word `i` is word `i−Nk` XOR the transformed word `i−1`, from word `Nk` on. -/
def FollowsRecurrence (nk : Nat) (ws : List Word) : Prop :=
  ∀ i, nk ≤ i → i < ws.length →
    ws.getD i zeroWord = xorWord (ws.getD (i - nk) zeroWord) (transformPrev nk i (ws.getD (i - 1) zeroWord))

/-- Counting the words newest first is counting them backwards from the last. -/
theorem getD_reverse_length_sub {before : List Word} {d : Nat} (hd : d < before.length) :
    before.reverse.getD (before.length - (d + 1)) zeroWord = before.getD d zeroWord := by
  rw [List.getD_eq_getElem?_getD, List.getElem?_reverse (by omega), List.getD_eq_getElem?_getD]
  congr 2; omega

/-- The next word, by the words before it in order. -/
theorem nextWord_eq {nk : Nat} {before : List Word} (hpos : 0 < nk) (hnk : nk ≤ before.length) :
    nextWord nk before.length before = xorWord (before.reverse.getD (before.length - nk) zeroWord)
      (transformPrev nk before.length (before.reverse.getD (before.length - 1) zeroWord)) := by
  have hback := getD_reverse_length_sub (before := before) (d := nk - 1) (by omega)
  have hlast := getD_reverse_length_sub (before := before) (d := 0) (by omega)
  rw [Nat.sub_add_cancel hpos] at hback
  rw [Nat.zero_add] at hlast
  rw [hback, hlast, nextWord, List.headD_eq_getD]
  rfl

theorem followsRecurrence_concat_nextWord {nk : Nat} {before : List Word} (hpos : 0 < nk) (hnk : nk ≤ before.length)
    (h : FollowsRecurrence nk before.reverse) :
    FollowsRecurrence nk (nextWord nk before.length before :: before).reverse := by
  intro i hi hlt
  rw [List.length_reverse, List.length_cons] at hlt
  have hold : ∀ j, j < before.length →
      (nextWord nk before.length before :: before).reverse.getD j zeroWord = before.reverse.getD j zeroWord :=
    fun j hj => by
      rw [List.reverse_cons]; exact List.getD_append _ _ _ _ (by simpa using hj)
  rw [hold (i - nk) (by omega), hold (i - 1) (by omega)]
  rcases Nat.lt_or_eq_of_le (Nat.le_of_lt_succ hlt) with hin | rfl
  · rw [hold i hin]
    exact h i hi (by simpa using hin)
  · rw [← nextWord_eq hpos hnk]
    simp

theorem length_expandFrom (nk n i : Nat) (before : List Word) :
    (expandFrom nk n i before).length = before.length + n := by
  induction n generalizing i before with
  | zero => rfl
  | succ n ih => rw [expandFrom, ih, List.length_cons]; omega

/-- The loop only adds words: those it began with stay the oldest. -/
theorem suffix_expandFrom (nk n i : Nat) (before : List Word) : before <:+ expandFrom nk n i before := by
  induction n generalizing i before with
  | zero => exact List.suffix_refl before
  | succ n ih => exact (List.suffix_cons _ _).trans (ih _ _)

theorem expandFrom_followsRecurrence {nk : Nat} (n : Nat) {before : List Word} (hpos : 0 < nk)
    (hnk : nk ≤ before.length) (h : FollowsRecurrence nk before.reverse) :
    FollowsRecurrence nk (expandFrom nk n before.length before).reverse := by
  induction n generalizing before with
  | zero => exact h
  | succ n ih =>
    exact ih (before := nextWord nk before.length before :: before) (by rw [List.length_cons]; omega)
      (followsRecurrence_concat_nextWord hpos hnk h)

/-! The schedule (R93, R94). -/

@[simp] theorem length_keyWords (key : List Byte) (nk : Nat) : (keyWords key nk).length = nk := by simp [keyWords]

theorem nkOf_pos (v : Variant) : 0 < nkOf v := by cases v <;> decide

theorem nkOf_le_scheduleWords (v : Variant) : nkOf v ≤ 4 * (nrOf v + 1) := by cases v <;> decide

@[simp] theorem length_keyExpandWords (key : List Byte) (v : Variant) :
    (keyExpandWords key v).length = 4 * (nrOf v + 1) := by
  rw [keyExpandWords, List.length_reverse, length_expandFrom, length_keyWords]
  exact Nat.add_sub_cancel' (nkOf_le_scheduleWords v)

@[simp] theorem length_keyExpand (key : List Byte) (v : Variant) :
    (keyExpand key v).length = 16 * (nrOf v + 1) := by
  rw [keyExpand_eq_bytesOf, length_bytesOf, length_keyExpandWords]; omega

/-- Words `0 .. Nk-1` of the schedule are the key's. -/
theorem wordOf_keyExpand_of_lt (key : List Byte) {v : Variant} {i : Nat} (hi : i < nkOf v) :
    wordOf (keyExpand key v) i = wordOf key i := by
  obtain ⟨later, hlater⟩ := suffix_expandFrom (nkOf v) (4 * (nrOf v + 1) - nkOf v) (nkOf v) (keyWords key (nkOf v))
  rw [keyExpand_eq_bytesOf, wordOf_bytesOf, keyExpandWords, ← hlater, List.reverse_append,
    List.getD_append _ _ _ _ (by simpa using hi)]
  simp [keyWords, hi]

/-- The key's own words follow the recurrence because it starts after them. -/
theorem keyExpandWords_followsRecurrence (key : List Byte) (v : Variant) :
    FollowsRecurrence (nkOf v) (keyExpandWords key v) := by
  have hstart : FollowsRecurrence (nkOf v) (keyWords key (nkOf v)).reverse := fun i hi hlt => by
    rw [List.length_reverse, length_keyWords] at hlt; omega
  simpa [keyExpandWords] using expandFrom_followsRecurrence (4 * (nrOf v + 1) - nkOf v) (nkOf_pos v)
    (length_keyWords key (nkOf v)).ge hstart

/-- The schedule begins with the key. -/
theorem take_keyExpand {key : List Byte} {v : Variant} (hkey : key.length = 4 * nkOf v) :
    (keyExpand key v).take (4 * nkOf v) = key := by
  have hle := nkOf_le_scheduleWords v
  refine bytes_ext_of_wordOf (n := nkOf v) ?_ hkey fun i hi => ?_
  · rw [List.length_take, length_keyExpand]; omega
  · rw [wordOf_take hi, wordOf_keyExpand_of_lt key hi]

theorem wordOf_keyExpand_of_ge (key : List Byte) {v : Variant} {i : Nat} (hi : nkOf v ≤ i)
    (hlt : i < 4 * (nrOf v + 1)) : wordOf (keyExpand key v) i =
      xorWord (wordOf (keyExpand key v) (i - nkOf v)) (transformPrev (nkOf v) i (wordOf (keyExpand key v) (i - 1))) := by
  simp only [keyExpand_eq_bytesOf, wordOf_bytesOf]
  exact keyExpandWords_followsRecurrence key v i hi (by rwa [length_keyExpandWords])

theorem rcon_succ {j : Nat} (h1 : 1 ≤ j) (h9 : j ≤ 9) : rcon (j + 1) = xtime (rcon j) := by
  interval_cases j <;> decide

/-- Settles O12: the loop keeps `FollowsRecurrence`, and the key's words stay at the start of the schedule. -/
theorem keyExpandFollowsItsRecurrence : Obligations.KeyExpandFollowsItsRecurrence := by
  refine ⟨⟨rfl, rfl, rfl, rfl, rfl, rfl⟩, ⟨rfl, fun _ => rcon_succ⟩, wordOf_eq,
    fun w u _ => ⟨rfl, subWord_eq w, rfl, xorWord_eq w u⟩,
    fun v key hkey => ⟨?_, length_keyExpand key v, take_keyExpand hkey, fun i hi hlt => ?_⟩⟩
  · rw [length_keyExpand]; cases v <;> rfl
  · exact wordOf_keyExpand_of_ge key hi hlt

end Sys2Proof.Proofs
end

section
/-! What a step, an instruction and a host access that give a next state have done: one case for each way to complete,
with the guards it passed. The invariants and frames of `10_state.md` are read off these cases. -/

namespace Sys2Proof.Proofs
open Sys2Proof Sys2Proof.Machine

/-- How an instruction completes in a next state: a report, NEW, SET_IV, a data command, a micro-operation. -/
inductive Executed (i : Instr) (s : State) : State → Prop where
  | raised (e : Err) : Executed i s { s with err := e, busy := false }
  | built {vc mc : BitVec 2} (v : Variant) (m : Mode) (hi : i = .new vc mc) (hkey : s.keyLen.toNat = 4 * nkOf v) :
      Executed i s (buildContext v m s)
  | ivSet (hi : i = .setIv) : Executed i s (succeed { s with chain := s.ivIn })
  | passed (hi : isData i = true) (hlen : needsBlocks i = true → s.bufLen % 16 = 0) (hbuf : bufferOk s = true) :
      Executed i s (succeed (bufferPass i s))
  | transformed (b : Block) (draws : Nat) (hi : isCommand i = false) : Executed i s { s with st := b, draws := draws }

/-- A micro-operation completes, and writes `STATE` only (R108). -/
theorem exec_microOp {i : Instr} (hi : isCommand i = false) (s : State) :
    ∃ b draws, exec i s = .next { s with st := b, draws := draws } := by
  cases i <;> simp only [isCommand, reduceCtorEq] at hi
  case addRoundKey =>
    rcases execAddRoundKey_cases s with ⟨-, h⟩ | ⟨-, h⟩
    · exact ⟨addRoundKey s.rks s.rnd s.st, s.draws, h⟩
    · exact ⟨xorBlock (freeBlock s.draws 0) s.st, s.draws + 1, h.trans (by simp only [onState])⟩
  all_goals exact ⟨_, s.draws, rfl⟩

theorem executed_of_raise {i : Instr} {e : Err} {s t : State} (h : raise e s = .next t) : Executed i s t := by
  cases h; exact .raised e

theorem executed_of_execNew {vc mc : BitVec 2} {s t : State} (h : execNew vc mc s = .next t) :
    Executed (.new vc mc) s t := by
  rcases execNew_cases vc mc s with ⟨-, k⟩ | ⟨v, m, -, -, ⟨-, k⟩ | ⟨-, -, k⟩ | ⟨hkey, -, k⟩⟩ <;> rw [k] at h
  · exact executed_of_raise h
  · exact executed_of_raise h
  · exact executed_of_raise h
  · cases h; exact .built v m rfl hkey

theorem executed_of_execSetIv {s t : State} (h : execSetIv s = .next t) : Executed .setIv s t := by
  rcases execSetIv_cases s with ⟨-, k⟩ | ⟨-, -, k⟩ | ⟨-, -, k⟩ <;> rw [k] at h
  · exact executed_of_raise h
  · exact executed_of_raise h
  · cases h; exact .ivSet rfl

theorem executed_of_data {i : Instr} (hi : isData i = true) {s t : State} (h : exec i s = .next t) :
    Executed i s t := by
  rcases exec_data_cases hi s with ⟨-, k⟩ | ⟨-, -, -, k⟩ | ⟨-, -, -, k⟩ | ⟨-, hlen, hbuf, k⟩ <;> rw [k] at h
  · exact executed_of_raise h
  · exact executed_of_raise h
  · cases h
  · cases h; exact .passed hi hlen hbuf

theorem executed_of_microOp {i : Instr} (hi : isCommand i = false) {s t : State} (h : exec i s = .next t) :
    Executed i s t := by
  obtain ⟨b, draws, k⟩ := exec_microOp hi s
  rw [k] at h
  cases h; exact .transformed b draws hi

/-- Every next state of an instruction is one of the five completions. -/
theorem executed_of_exec {i : Instr} {s t : State} (h : exec i s = .next t) : Executed i s t := by
  cases i with
  | new vc mc => exact executed_of_execNew h
  | setIv => exact executed_of_execSetIv h
  | ecbEncrypt | ecbDecrypt | cbcEncrypt | cbcDecrypt | ctrXcrypt => exact executed_of_data rfl h
  | subBytes | shiftRows | mixColumns | addRoundKey => exact executed_of_microOp rfl h
  | invSubBytes | invShiftRows | invMixColumns => exact executed_of_microOp rfl h

/-- The pass of a data command and its report keep the frame. -/
theorem dataFrame_succeed_bufferPass {i : Instr} (hi : isData i = true) (s : State) :
    DataFrame s (succeed (bufferPass i s)) :=
  dataFrame_trans (dataFrame_bufferPass hi s) (dataFrame_succeed _)

/-- What a host access other than a reset leaves alone: it writes operand registers and their record, memory, and what
the host got. -/
theorem hostAccess_frame {a : HostAction} {s t : State} (h : hostAccess a s = .next t) :
    (a = .reset ∧ t = platformReset s) ∨ t = { s with
      keyLen := t.keyLen, ivLen := t.ivLen, bufAddr := t.bufAddr, bufLen := t.bufLen, keyIn := t.keyIn,
      ivIn := t.ivIn, written := t.written, mem := t.mem, hostData := t.hostData, draws := t.draws } := by
  rcases hostAccess_next h with ⟨r, v, -, rfl⟩ | ⟨r, -, rfl⟩ | ⟨x, b, -, -, rfl⟩ | ⟨x, -, rfl⟩ | hreset
  · right; rw [writeReg_frame]
  · right; rw [readReg_frame]
  · exact .inr rfl
  · exact .inr rfl
  · exact .inl hreset

/-- The state a task starts from: the sequencer's port is empty, and what the host has still to do is `host`. -/
abbrev taken (s : State) (host : List HostAction) : State := { s with uop := none, host := host }

/-- How a step completes in a next state: idle, an instruction, an illegal command word, a host access. -/
inductive Stepped (s : State) : State → Prop where
  | idle : Stepped s s
  | ran {i : Instr} {host : List HostAction} {t : State} (hf : (fetch s).1 = .run i)
      (h : Executed i (taken s host) t) : Stepped s t
  | illegal (host : List HostAction) : Stepped s { taken s host with err := .illegalCmd, busy := false }
  | accessed {a : HostAction} {host : List HostAction} {t : State} (hf : (fetch s).1 = .access a)
      (h : hostAccess a (taken s host) = .next t) : Stepped s t

theorem taken_of_uop_none {s : State} (hu : s.uop = none) (host : List HostAction) :
    { s with host := host } = taken s host := by rw [taken, ← hu]

/-- Every next state of a step is one of the four completions. -/
theorem stepped_of_step {s t : State} (h : step s = .next t) : Stepped s t := by
  rcases step_cases s with ⟨-, -, -, k⟩ | ⟨c, i, -, -, hf, k⟩ | ⟨c, -, -, k⟩ | ⟨-, -, v, rest, -, k⟩ |
    ⟨v, rest, i, hu, -, -, -, hf, k⟩ | ⟨v, rest, hu, -, -, -, k⟩ | ⟨a, rest, hu, -, -, hf, k⟩ <;> rw [k] at h
  · cases h; exact .idle
  · exact .ran hf (executed_of_exec (s := taken s s.host) h)
  · cases h
  · cases h
  · exact .ran hf (executed_of_exec (taken_of_uop_none hu rest ▸ h))
  · rw [taken_of_uop_none hu] at h
    cases h; exact .illegal rest
  · exact .accessed hf (taken_of_uop_none hu rest ▸ h)

end Sys2Proof.Proofs
end

section
/-! Memory and the numbered registers (`20_memory.md` R40, `10_state.md` R16, R17). -/

namespace Sys2Proof.Proofs
open Sys2Proof Sys2Proof.Machine

/-- Memory stays in form and inside the address space when what is newly listed lies in a range of it. -/
theorem memoryInv_of_listed {s t : State} {a n : Nat} (hs : MemoryInv s) (hplatform : t.platform = s.platform)
    (hwf : MemWf t.mem) (hlisted : ∀ c ∈ t.mem, (a ≤ c.1 ∧ c.1 < a + n) ∨ c ∈ s.mem)
    (hend : a + n ≤ 2 ^ s.platform.aw) : MemoryInv t := by
  refine ⟨hwf, fun c hc => ?_⟩
  rw [hplatform]
  rcases hlisted c hc with ⟨-, hlt⟩ | hold
  · exact hlt.trans_le hend
  · exact hs.2 c hold

/-! The loop of a data command. -/

/-- After `k` turns of a loop that began at `s`: the frame is kept, memory is in form, and `OFF` is `16k`, but never
beyond the buffer (R112, R127). -/
structure AfterTurns (s : State) (k : Nat) (t : State) : Prop where
  frame : DataFrame s t
  memory : MemoryInv t
  off : t.off = min (16 * k) s.bufLen

section
variable {s t u : State} {k : Nat} (hbuf : bufferOk s = true) (ht : AfterTurns s k t) (hk : k < chunkCount s.bufLen)
include hbuf ht hk

/-- A turn that lists bytes of its chunk only and moves `OFF` by the chunk's length carries the invariant. -/
theorem AfterTurns.chunk (hframe : DataFrame t u) (hwf : MemWf u.mem)
    (hlisted : ∀ c ∈ u.mem, (t.bufAddr + t.off ≤ c.1 ∧ c.1 < t.bufAddr + t.off + ctrChunkLen t) ∨ c ∈ t.mem)
    (hoff : u.off = t.off + ctrChunkLen t) : AfterTurns s (k + 1) u := by
  obtain ⟨hst, hmem, hat⟩ := ht
  have hlen := hst.bufLen
  rw [chunkCount] at hk
  refine ⟨dataFrame_trans hst hframe, memoryInv_of_listed hmem hframe.platform hwf hlisted ?_, ?_⟩
  · have hend : s.bufAddr + s.bufLen ≤ 2 ^ s.platform.aw := by
      rcases (bufferOk_iff s).1 hbuf with hempty | ⟨hend, -⟩
      · omega
      · exact hend
    rw [hst.platform, hst.bufAddr, ctrChunkLen]
    omega
  · rw [hoff, ctrChunkLen]
    omega

/-- A turn that stores one block, in a buffer of whole blocks. -/
theorem AfterTurns.block (hlen : s.bufLen % 16 = 0) (hframe : DataFrame t u) {b : Block}
    (hmem : u.mem = writeBlock t.mem (t.bufAddr + t.off) b) (hoff : u.off = t.off + 16) : AfterTurns s (k + 1) u := by
  have hwhole : ctrChunkLen t = 16 := by
    have hat := ht.off
    have hsame := ht.frame.bufLen
    rw [chunkCount] at hk
    rw [ctrChunkLen]
    omega
  refine ht.chunk hbuf hk hframe (hmem ▸ memWf_writeBlock _ _ ht.memory.1) (fun c hc => ?_) (hwhole ▸ hoff)
  rw [hwhole]
  exact mem_writeBlock (hmem ▸ hc)

/-- A turn of CTR_XCRYPT. -/
theorem AfterTurns.ctr : AfterTurns s (k + 1) (ctrBody t) := by
  refine ht.chunk hbuf hk (dataFrame_ctrBody t) ?_ ?_ (by rw [ctrBody_eq]) <;> rw [ctrBody_eq]
  · exact memWf_memWrite _ _ ht.memory.1
  · intro c hc
    rcases mem_memWrite hc with ⟨hge, hlt⟩ | hold
    · rw [length_xorChunk, length_memRead] at hlt
      exact .inl ⟨hge, by omega⟩
    · exact .inr hold

end

/-- A loop whose every turn carries the invariant leaves memory in form. -/
theorem memoryInv_overBuffer {body : State → State} {s : State} (hs : MemoryInv s)
    (hbody : ∀ k t, AfterTurns s k t → k < chunkCount s.bufLen → AfterTurns s (k + 1) (body t)) :
    MemoryInv (overBuffer body s) :=
  (overBuffer_induction (P := AfterTurns s) s ⟨dataFrame_off s 0, hs, by simp⟩
    fun k t hk ht => hbody k t ht hk).memory

theorem memoryInv_bufferPass {i : Instr} (hi : isData i = true) {s : State}
    (hlen : needsBlocks i = true → s.bufLen % 16 = 0) (hbuf : bufferOk s = true) (hs : MemoryInv s) :
    MemoryInv (bufferPass i s) := by
  cases i <;> simp only [isData, reduceCtorEq] at hi <;> rw [bufferPass]
  case ecbEncrypt =>
    have hloop : MemoryInv (overBuffer ecbEncryptBody s) := memoryInv_overBuffer hs fun k t ht hk =>
      ht.block hbuf hk (hlen rfl) (dataFrame_ecbEncryptBody t) (by rw [ecbEncryptBody_eq]) (by rw [ecbEncryptBody_eq])
    simpa only [ecbEncryptBuffer, MemoryInv, releaseScratch_mem, releaseScratch_platform] using hloop
  case ecbDecrypt =>
    have hloop : MemoryInv (overBuffer ecbDecryptBody s) := memoryInv_overBuffer hs fun k t ht hk =>
      ht.block hbuf hk (hlen rfl) (dataFrame_ecbDecryptBody t) (by rw [ecbDecryptBody_eq]) (by rw [ecbDecryptBody_eq])
    simpa only [ecbDecryptBuffer, MemoryInv, releaseScratch_mem, releaseScratch_platform] using hloop
  case cbcEncrypt =>
    have hch : MemoryInv { s with ch := s.chain } := hs
    have hloop : MemoryInv (cbcEncryptLoop s) := memoryInv_overBuffer hch fun k t ht hk =>
      ht.block hbuf hk (hlen rfl) (dataFrame_cbcEncryptBody t) (by rw [cbcEncryptBody_eq]) (by rw [cbcEncryptBody_eq])
    simpa only [cbcEncryptBuffer, MemoryInv, releaseCh_mem, releaseCh_platform, releaseScratch_mem,
      releaseScratch_platform, chainFromCh_mem, chainFromCh_platform] using hloop
  case cbcDecrypt =>
    have hloop : MemoryInv (overBuffer cbcDecryptBody s) := memoryInv_overBuffer hs fun k t ht hk =>
      ht.block hbuf hk (hlen rfl) (dataFrame_cbcDecryptBody t) (by rw [cbcDecryptBody_eq]) (by rw [cbcDecryptBody_eq])
    simpa only [cbcDecryptBuffer, MemoryInv, releaseNextIv_mem, releaseNextIv_platform, releaseScratch_mem,
      releaseScratch_platform] using hloop
  case ctrXcrypt =>
    have hloop : MemoryInv (overBuffer ctrBody s) := memoryInv_overBuffer hs fun k t ht hk => ht.ctr hbuf hk
    simpa only [ctrBuffer, MemoryInv, releaseKs_mem, releaseKs_platform, releaseScratch_mem,
      releaseScratch_platform] using hloop

/-! The free values a command or a reset leaves in the counters. -/

/-- Every data command ends by releasing the scratch, so `RND` and `OFF` are in range after it (R17, log 8). -/
theorem bufferPass_counters {i : Instr} (hi : isData i = true) (s : State) :
    (bufferPass i s).rnd ≤ 14 ∧ (bufferPass i s).off < 2 ^ (bufferPass i s).platform.aw := by
  have hrelease (u : State) :
      (releaseScratch u).rnd ≤ 14 ∧ (releaseScratch u).off < 2 ^ (releaseScratch u).platform.aw :=
    ⟨Nat.le_of_lt_succ (Nat.mod_lt _ (by decide)), Nat.mod_lt _ (Nat.two_pow_pos _)⟩
  cases i <;> simp only [isData, reduceCtorEq] at hi <;> rw [bufferPass]
  case ecbEncrypt => exact hrelease (overBuffer ecbEncryptBody s)
  case ecbDecrypt => exact hrelease (overBuffer ecbDecryptBody s)
  case cbcEncrypt =>
    rw [cbcEncryptBuffer, releaseCh_rnd, releaseCh_off, releaseCh_platform]
    exact hrelease (chainFromCh (cbcEncryptLoop s))
  case cbcDecrypt => exact hrelease (overBuffer cbcDecryptBody s)
  case ctrXcrypt => exact hrelease (overBuffer ctrBody s)

theorem rangesInv_bufferPass {i : Instr} (hi : isData i = true) {s : State} (hs : RangesInv s) :
    RangesInv (bufferPass i s) := by
  obtain ⟨haw, haddr, hlen, -, -, hki⟩ := hs
  obtain ⟨hrnd, hoff⟩ := bufferPass_counters hi s
  have frame := dataFrame_bufferPass hi s
  rw [← frame.platform] at haw haddr hlen
  exact ⟨haw, frame.bufAddr ▸ haddr, frame.bufLen ▸ hlen, hrnd, hoff, frame.ki ▸ hki⟩

/-! Instructions, host accesses and steps. -/

theorem Executed.keeps_inv {i : Instr} {s t : State} (h : Executed i s t) (hs : Inv s) : Inv t := by
  obtain ⟨hmem, hranges⟩ := hs
  cases h with
  | raised | ivSet | transformed => exact ⟨hmem, hranges⟩
  | built =>
    obtain ⟨haw, haddr, hlen, hrnd, hoff, -⟩ := hranges
    exact ⟨hmem, haw, haddr, hlen, hrnd, hoff, Nat.le_of_lt_succ (Nat.mod_lt _ (by decide))⟩
  | passed hi hlen hbuf => exact ⟨memoryInv_bufferPass hi hlen hbuf hmem, rangesInv_bufferPass hi hranges⟩

theorem writeReg_keeps_inv (r : HostReg) (v : Nat) {s : State} (hs : Inv s) : Inv (writeReg r v s) := by
  obtain ⟨hmem, haw, haddr, hlen, hrest⟩ := hs
  cases r with
  | bufAddr => exact ⟨hmem, haw, Nat.mod_lt _ (Nat.two_pow_pos _), hlen, hrest⟩
  | bufLen => exact ⟨hmem, haw, haddr, Nat.mod_lt _ (Nat.two_pow_pos _), hrest⟩
  | cmd | status | ctxCfg | keyLen | ivLen | keyIn | ivIn | chain | rks => exact ⟨hmem, haw, haddr, hlen, hrest⟩

/-- A reset in mid-command leaves free bytes in the command's buffer, which lies in the address space (R180, log 12). -/
theorem memoryInv_platformReset {s : State} (hs : MemoryInv s) : MemoryInv (platformReset s) := by
  suffices h : MemoryInv { s with mem := memAfterReset s } from h
  by_cases hbuf : (s.busy && bufferOk s) = true
  · rw [memAfterReset, if_pos hbuf]
    rcases (bufferOk_iff s).1 (Bool.and_eq_true_iff.1 hbuf).2 with hempty | ⟨hend, -⟩
    · rw [hempty]; exact hs
    · exact memoryInv_of_listed hs rfl (memWf_scramble _ _ _ _ hs.1) (fun c hc => mem_scramble hc) hend
  · rw [memAfterReset, if_neg hbuf]
    exact hs

theorem platformReset_keeps_inv {s : State} (hs : Inv s) : Inv (platformReset s) :=
  ⟨memoryInv_platformReset hs.1, hs.2.1, Nat.mod_lt _ (Nat.two_pow_pos _), Nat.mod_lt _ (Nat.two_pow_pos _),
    Nat.le_of_lt_succ (Nat.mod_lt _ (by decide)), Nat.mod_lt _ (Nat.two_pow_pos _),
    Nat.le_of_lt_succ (Nat.mod_lt _ (by decide))⟩

theorem hostAccess_keeps_inv {a : HostAction} {s t : State} (hs : Inv s) (h : hostAccess a s = .next t) : Inv t := by
  rcases hostAccess_next h with ⟨r, v, -, rfl⟩ | ⟨r, -, rfl⟩ | ⟨x, b, -, hx, rfl⟩ | ⟨x, -, rfl⟩ | ⟨-, rfl⟩
  · exact writeReg_keeps_inv r v hs
  · rw [readReg_frame]; exact hs
  · refine ⟨memoryInv_of_listed (a := x) (n := 1) hs.1 rfl (memWf_writeByte x b hs.1.1) (fun c hc => ?_) hx, hs.2⟩
    rcases mem_writeByte hc with hat | hold
    · left; omega
    · exact .inr hold
  · exact hs
  · exact platformReset_keeps_inv hs

/-- Settles O58: a data command writes inside its legal buffer and releases the counters in range (`AfterTurns` is the
loop's invariant); NEW, a host write and a reset reduce what they store to the register's range. -/
theorem stepKeepsMemoryAndRanges : Obligations.StepKeepsMemoryAndRanges := by
  intro s t hs h
  cases stepped_of_step h with
  | idle => exact hs
  | ran hf h => exact h.keeps_inv hs
  | illegal => exact hs
  | accessed hf h => exact hostAccess_keeps_inv (s := taken s _) hs h

end Sys2Proof.Proofs
end

section
/-! The context: who writes the schedule, `CTX_CFG` and `CHAIN` (`10_state.md` R11 to R13, `45_context.md` R143). -/

namespace Sys2Proof.Proofs
open Sys2Proof Sys2Proof.Machine

/-- The schedule, `VARIANT`, `MODE` and `VALID` are as they were. -/
abbrev SameContext (s t : State) : Prop :=
  t.rks = s.rks ∧ t.variant = s.variant ∧ t.mode = s.mode ∧ t.valid = s.valid

/-- Of the instructions only a NEW that succeeds writes the context. -/
theorem Executed.context {i : Instr} {s t : State} (h : Executed i s t) : SameContext s t ∨
    ∃ vc mc v m, i = .new vc mc ∧ s.keyLen.toNat = 4 * nkOf v ∧ t = buildContext v m s := by
  cases h with
  | raised | ivSet | transformed => exact .inl ⟨rfl, rfl, rfl, rfl⟩
  | built v m hi hkey => exact .inr ⟨_, _, v, m, hi, hkey, rfl⟩
  | passed hi =>
    have frame := dataFrame_succeed_bufferPass hi s
    exact .inl ⟨frame.rks, frame.variant, frame.mode, frame.valid⟩

/-- Everything a step does to the context: nothing, the context of a NEW, or the reset that drops it. -/
theorem step_context {s t : State} (h : step s = .next t) : SameContext s t ∨
    (∃ vc mc v m host, (fetch s).1 = .run (.new vc mc) ∧ s.keyLen.toNat = 4 * nkOf v ∧
      t = buildContext v m (taken s host)) ∨
    ((fetch s).1 = .access .reset ∧ t.valid = false) := by
  cases stepped_of_step h with
  | idle => exact .inl ⟨rfl, rfl, rfl, rfl⟩
  | ran hf h =>
    rcases h.context with hsame | ⟨vc, mc, v, m, rfl, hkey, ht⟩
    · exact .inl hsame
    · exact .inr (.inl ⟨vc, mc, v, m, _, hf, hkey, ht⟩)
  | illegal => exact .inl ⟨rfl, rfl, rfl, rfl⟩
  | accessed hf h =>
    rcases hostAccess_frame h with ⟨rfl, rfl⟩ | ht
    · exact .inr (.inr ⟨hf, rfl⟩)
    · left; rw [ht]; exact ⟨rfl, rfl, rfl, rfl⟩

/-- Settles O48: the three cases of `step_context`. -/
theorem onlyNewWritesTheSchedule : Obligations.OnlyNewWritesTheSchedule := by
  intro s t h
  rcases step_context h with hsame | ⟨vc, mc, v, m, host, hf, -, rfl⟩ | hreset
  · exact .inl hsame
  · exact .inr (.inl ⟨vc, mc, hf, buildContext_err v m _, buildContext_valid v m _⟩)
  · exact .inr (.inr hreset)

/-! The schedule of a context (R12). -/

theorem scheduleInv_of_sameContext {s t : State} (h : SameContext s t) (hs : ScheduleInv s) : ScheduleInv t := by
  obtain ⟨hrks, hvariant, -, hvalid⟩ := h
  rw [ScheduleInv, hrks, hvariant, hvalid]
  exact hs

theorem length_keyOperand {s : State} {v : Variant} (hkey : s.keyLen.toNat = 4 * nkOf v) :
    (keyOperand s).length = 4 * nkOf v := by
  have hfits : 4 * nkOf v ≤ 32 := by cases v <;> decide
  rw [keyOperand, hkey, List.length_take, Vector.length_toList]
  omega

theorem scheduleLen_le_storage (v : Variant) : scheduleLen v ≤ 240 := by cases v <;> decide

/-- Within the schedule's length the storage holds the expansion of the key. -/
theorem getElem?_scheduleStorage (key : List Byte) {v : Variant} (draw : Nat) {j : Nat} (hj : j < scheduleLen v) :
    (scheduleStorage key v draw)[j]? = (keyExpand key v)[j]? := by
  have hstored : j < 240 := hj.trans_le (scheduleLen_le_storage v)
  have hexpanded : j < (keyExpand key v).length := by rwa [length_keyExpand]
  simp [scheduleStorage, hj, hstored, List.getElem?_eq_getElem hexpanded]

theorem scheduleInv_buildContext {v : Variant} (m : Mode) {s : State} (hkey : s.keyLen.toNat = 4 * nkOf v) :
    ScheduleInv (buildContext v m s) := by
  intro _
  rw [buildContext_variant, buildContext_rks]
  exact ⟨keyOperand s, length_keyOperand hkey, fun j hj => getElem?_scheduleStorage _ _ hj⟩

/-- Settles O59: a step keeps the context, or a NEW stores the expansion of its key operand, or a reset leaves no
context. -/
theorem stepKeepsTheSchedule : Obligations.StepKeepsTheSchedule := by
  intro s t hs h
  rcases step_context h with hsame | ⟨vc, mc, v, m, host, -, hkey, rfl⟩ | ⟨-, hinvalid⟩
  · exact scheduleInv_of_sameContext hsame hs
  · exact scheduleInv_buildContext (s := taken s host) m hkey
  · intro hvalid
    rw [hinvalid] at hvalid
    cases hvalid

/-! The chaining field (R13). -/

/-- The commands that write `CHAIN` (R13). -/
abbrev WritesChain (i : Instr) : Prop :=
  (∃ vc mc, i = .new vc mc) ∨ i = .setIv ∨ i = .cbcEncrypt ∨ i = .cbcDecrypt ∨ i = .ctrXcrypt

theorem bufferPass_ecbEncrypt_chain (s : State) : (bufferPass .ecbEncrypt s).chain = s.chain := by
  rw [bufferPass, ecbEncryptBuffer, releaseScratch_chain]
  exact overBuffer_keeps (P := fun t => t.chain = s.chain) s rfl fun t ht => by rw [ecbEncryptBody_eq]; exact ht

theorem bufferPass_ecbDecrypt_chain (s : State) : (bufferPass .ecbDecrypt s).chain = s.chain := by
  rw [bufferPass, ecbDecryptBuffer, releaseScratch_chain]
  exact overBuffer_keeps (P := fun t => t.chain = s.chain) s rfl fun t ht => by rw [ecbDecryptBody_eq]; exact ht

theorem Executed.chain {i : Instr} {s t : State} (h : Executed i s t) :
    t.chain = s.chain ∨ (t.err = .ok ∧ WritesChain i) := by
  cases h with
  | raised | transformed => exact .inl rfl
  | built v m hi => exact .inr ⟨buildContext_err v m s, .inl ⟨_, _, hi⟩⟩
  | ivSet hi => exact .inr ⟨succeed_err _, .inr (.inl hi)⟩
  | passed hi =>
    rw [succeed_chain, succeed_err]
    cases i <;> simp only [isData, reduceCtorEq] at hi
    case ecbEncrypt => exact .inl (bufferPass_ecbEncrypt_chain s)
    case ecbDecrypt => exact .inl (bufferPass_ecbDecrypt_chain s)
    case cbcEncrypt | cbcDecrypt | ctrXcrypt => exact .inr ⟨rfl, by simp [WritesChain]⟩

/-- Settles O49: of the instructions by `Executed.chain`, of the host's moves by `hostAccess_frame`. -/
theorem onlyChainCommandsWriteChain : Obligations.OnlyChainCommandsWriteChain := by
  intro s t h
  cases stepped_of_step h with
  | idle => exact .inl rfl
  | ran hf h =>
    rcases h.chain with hsame | ⟨herr, hi⟩
    · exact .inl hsame
    · exact .inr (.inl ⟨herr, _, hf, hi⟩)
  | illegal => exact .inl rfl
  | accessed hf h =>
    rcases hostAccess_frame h with ⟨rfl, -⟩ | ht
    · exact .inr (.inr hf)
    · left; rw [ht]

end Sys2Proof.Proofs
end

section
/-! The operand registers, `BUSY` and the sequencer's port (`10_state.md` R14, R16, R22). -/

namespace Sys2Proof.Proofs
open Sys2Proof Sys2Proof.Machine

/-- Settles O47: each completion of an instruction leaves the operand registers and their record alone. -/
theorem instructionsKeepOperands : Obligations.InstructionsKeepOperands := by
  intro i s t h
  cases executed_of_exec h with
  | raised | built | ivSet | transformed => exact ⟨rfl, rfl, rfl, rfl, rfl, rfl, rfl⟩
  | passed hi =>
    have frame := dataFrame_succeed_bufferPass hi s
    exact ⟨frame.keyIn, frame.keyLen, frame.ivIn, frame.ivLen, frame.bufAddr, frame.bufLen, frame.written⟩

/-- A command ends with `BUSY` 0, a micro-operation leaves it alone, and none of them loads the sequencer's port. -/
theorem Executed.betweenCommands {i : Instr} {s t : State} (h : Executed i s t) (hs : BetweenCommands s) :
    BetweenCommands t := by
  obtain ⟨hbusy, huop⟩ := hs
  cases h with
  | raised | built | ivSet => exact ⟨rfl, huop⟩
  | passed hi => exact ⟨rfl, (dataFrame_succeed_bufferPass hi s).uop.trans huop⟩
  | transformed => exact ⟨hbusy, huop⟩

/-- Settles O60: by the completions of a step. -/
theorem stepEndsBetweenCommands : Obligations.StepEndsBetweenCommands := by
  intro s t hs h
  obtain ⟨hbusy, huop⟩ := hs
  cases stepped_of_step h with
  | idle => exact ⟨hbusy, huop⟩
  | ran hf h => exact h.betweenCommands ⟨hbusy, rfl⟩
  | illegal => exact ⟨rfl, rfl⟩
  | accessed hf h =>
    rcases hostAccess_frame h with ⟨-, rfl⟩ | ht
    · exact ⟨rfl, rfl⟩
    · rw [ht]; exact ⟨hbusy, rfl⟩

end Sys2Proof.Proofs
end

section
/-! Reset, the layout of `STATUS` and `CTX_CFG`, and the host's reads and writes of registers (`10_state.md` R11, R14,
R24, R25, `45_context.md` R142). -/

namespace Sys2Proof.Proofs
open Sys2Proof Sys2Proof.Machine

/-- Settles O1: the six fields of `State.reset` hold these values by definition (R24). -/
theorem resetHasNoContext : Obligations.ResetHasNoContext := ⟨rfl, rfl, rfl, rfl, rfl, rfl⟩

/-- The fields of an 8-bit register of one bit, four zero bits and three bits (R14). -/
theorem fields_of_status (busy : Bool) (code : BitVec 3) :
    (BitVec.ofBool busy ++ 0#4 ++ code).extractLsb' 0 3 = code ∧
    (BitVec.ofBool busy ++ 0#4 ++ code).extractLsb' 3 4 = 0 ∧
    (BitVec.ofBool busy ++ 0#4 ++ code).getLsbD 7 = busy := by
  revert busy code; decide

/-- The fields of an 8-bit register of three zero bits, two 2-bit fields and one bit (R11). -/
theorem fields_of_ctxCfg (mode variant : BitVec 2) (valid : Bool) :
    (0#3 ++ mode ++ variant ++ BitVec.ofBool valid).getLsbD 0 = valid ∧
    (0#3 ++ mode ++ variant ++ BitVec.ofBool valid).extractLsb' 1 2 = variant ∧
    (0#3 ++ mode ++ variant ++ BitVec.ofBool valid).extractLsb' 3 2 = mode ∧
    (0#3 ++ mode ++ variant ++ BitVec.ofBool valid).extractLsb' 5 3 = 0 ∧
    (0#3 ++ mode ++ variant ++ BitVec.ofBool valid).toNat = 8 * mode.toNat + 2 * variant.toNat + valid.toNat := by
  revert mode variant valid; decide

theorem variantOfCode_variantCode (v : Variant) : variantOfCode (variantCode v) = some v := by cases v <;> rfl

theorem modeOfCode_modeCode (m : Mode) : modeOfCode (modeCode m) = some m := by cases m <;> rfl

/-- Settles O2: the codes by evaluation, the layouts by the fields of the two registers. -/
theorem statusAndConfigLayout : Obligations.StatusAndConfigLayout := by
  refine ⟨⟨rfl, rfl, rfl, rfl, rfl, rfl⟩, ⟨rfl, rfl, rfl, variantOfCode_variantCode, rfl⟩,
    ⟨rfl, rfl, rfl, modeOfCode_modeCode, rfl⟩, fun s => ?_⟩
  obtain ⟨herr, hzero, hbusy⟩ := fields_of_status s.busy (errCode s.err)
  obtain ⟨hvalid, hvariant, hmode, hzero', hvalue⟩ :=
    fields_of_ctxCfg (modeCode s.mode) (variantCode s.variant) s.valid
  refine ⟨herr, hzero, hbusy, hvalid, hvariant, hmode, hzero', fun hv => ?_⟩
  rw [ctxCfgByte, hvalue, hv]
  rfl

/-- Settles O6: `step_command` at the state with the write of `CMD` placed first. -/
theorem stepRunsTheDecodedCommand : Obligations.StepRunsTheDecodedCommand := by
  intro s w rest i hs hd
  obtain ⟨hbusy, huop⟩ := hs
  constructor
  · exact step_command (s := { s with host := .write .cmd w.toNat :: rest }) ⟨hbusy, huop⟩ rfl (by simpa using hd)
  · have hplaced : s.withFetchWord 8 w.toNat = { s with host := .write .cmd w.toNat :: s.host } := by
      simp [State.withFetchWord, Nat.mod_eq_of_lt w.isLt, ← hbusy, ← huop]
    rw [hplaced]
    exact step_command (s := { s with host := .write .cmd w.toNat :: s.host }) ⟨hbusy, huop⟩ rfl (by simpa using hd)

/-! Host reads and writes of registers. -/

/-- A host read of a register with a specified value gives the host that value and changes nothing else. -/
theorem step_read_value {s : State} (hs : BetweenCommands s) {r : HostReg} {v : Nat} (rest : List HostAction)
    (hv : readValue r s = some v) :
    step { s with host := .read r :: rest } = .next { s with host := rest, hostData := some v } := by
  have hv : readValue r { s with host := rest } = some v := hv
  rw [step_read hs, readReg, hv]

/-- Settles O52: `step_read_value` at each register with its specified value. -/
theorem registerReadReturnsTheValue : Obligations.RegisterReadReturnsTheValue := by
  intro s rest hs
  refine ⟨step_read_value hs rest rfl, fun hv => step_read_value hs rest ?_,
    fun j hv => step_read_value hs rest ?_, fun j hv hj => step_read_value hs rest ?_,
    step_read_value hs rest rfl, step_read_value hs rest rfl, step_read_value hs rest rfl, step_read_value hs rest rfl,
    fun j => step_read_value hs rest rfl, fun j => step_read_value hs rest rfl⟩
  · rw [readValue, if_pos hv]
  · rw [readValue, if_pos hv, byteAt_eq j.isLt]; rfl
  · rw [readValue, if_pos ⟨hv, hj⟩]

/-- The free value of `CTX_CFG` has bit 0 and bits 7:5 clear. -/
theorem and_ctxCfg_mask (b : Byte) : (b &&& 0x1e).toNat % 2 = 0 ∧ (b &&& 0x1e).toNat < 32 := by
  revert b; decide

/-- Settles O53: `readReg_frame`, and the mask of the free value of `CTX_CFG`. -/
theorem openRegisterReadCompletes : Obligations.OpenRegisterReadCompletes := by
  constructor
  · intro s r rest hs
    refine ⟨_, step_read hs r rest, ?_⟩
    rw [readReg_frame]
  · intro s rest hs hv
    obtain ⟨heven, hlt⟩ := and_ctxCfg_mask (Config.freeByte s.draws 0)
    refine ⟨_, _, step_read hs .ctxCfg rest, ?_, heven, hlt⟩
    simp [readReg, readValue, hv, openValue]

/-- A write of a read-only register stores nothing (R142 (e)). -/
theorem writeReg_readOnly {r : HostReg} (hr : regNumber r ∈ [1, 2, 9, 10]) (v : Nat) (s : State) :
    writeReg r v s = s := by
  cases r with
  | status | ctxCfg | chain | rks | cmd => rfl
  | keyLen | ivLen | bufAddr | bufLen | keyIn | ivIn => simp [regNumber] at hr

/-- Settles O55: registers 1, 2, 9 and 10 are not `CMD` and are read-only. -/
theorem readOnlyWritesAreIgnored : Obligations.ReadOnlyWritesAreIgnored := by
  intro s r v rest hs hr
  have hcmd : r ≠ .cmd := by rintro rfl; simp [regNumber] at hr
  rw [step_write hs hcmd, writeReg_readOnly hr]

end Sys2Proof.Proofs
end

section
/-! The host's stores and reads of data memory (`20_memory.md` R48), and the illegal buffer of a data command (R47). -/

namespace Sys2Proof.Proofs
open Sys2Proof Sys2Proof.Machine

/-- At an address that exists and is plain memory the access takes place. -/
theorem hostMemory_plain {a : Nat} {s : State} (ha : a < 2 ^ s.platform.aw) (hp : plainByte s.platform a = true)
    (done : State) : hostMemory a done s = .next done := by
  rw [hostMemory, if_neg (Nat.not_le.2 ha), if_neg (by simp [hp])]

/-- Between commands the host's next action other than a command takes place. -/
theorem step_access_betweenCommands {s : State} (hs : BetweenCommands s) {a : HostAction} (ha : ∀ v, a ≠ .write .cmd v)
    (rest : List HostAction) : step { s with host := a :: rest } = hostAccess a { s with host := rest } :=
  step_access (s := { s with host := a :: rest }) hs.2 rfl ha

/-- A host store to plain memory between commands. -/
theorem step_memWrite {s : State} (hs : BetweenCommands s) {a : Nat} (ha : a < 2 ^ s.platform.aw)
    (hp : plainByte s.platform a = true) (b : Byte) (rest : List HostAction) :
    step { s with host := .memWrite a b :: rest } = .next { s with host := rest, mem := writeByte s.mem a b } := by
  rw [step_access_betweenCommands hs (by simp), hostAccess, hs.1, Bool.false_and, if_neg Bool.false_ne_true]
  exact hostMemory_plain (s := { s with host := rest }) ha hp _

/-- A host read of plain memory between commands. -/
theorem step_memRead {s : State} (hs : BetweenCommands s) {a : Nat} (ha : a < 2 ^ s.platform.aw)
    (hp : plainByte s.platform a = true) (rest : List HostAction) :
    step { s with host := .memRead a :: rest } =
      .next { s with host := rest, hostData := some (readByte s.mem a).toNat } := by
  rw [step_access_betweenCommands hs (by simp), hostAccess, hs.1, Bool.false_and, if_neg Bool.false_ne_true]
  exact hostMemory_plain (s := { s with host := rest }) ha hp _

/-- Settles O51: the store is `writeByte`, and `readByte_writeByte` says what is read after it. -/
theorem memoryReturnsLastWrite : Obligations.MemoryReturnsLastWrite := by
  intro s a b rest hs ha hp
  exact ⟨_, step_memWrite hs ha hp b rest, rfl, fun x => readByte_writeByte s.mem a x b, step_memRead hs ha hp rest⟩

/-- A data command passes its checks with a context and, where it needs whole blocks, a length of whole blocks. -/
theorem reportedErr_data_eq_ok_iff {i : Instr} (hi : isData i = true) (s : State) :
    reportedErr i s = .ok ↔ s.valid = true ∧ (needsBlocks i = true → s.bufLen % 16 = 0) := by
  cases i <;> simp only [isData, reduceCtorEq] at hi
  case ecbEncrypt | ecbDecrypt | cbcEncrypt | cbcDecrypt =>
    cases hv : s.valid <;> by_cases hl : s.bufLen % 16 = 0 <;> simp [reportedErr, needsBlocks, hv, hl]
  case ctrXcrypt => cases hv : s.valid <;> simp [reportedErr, needsBlocks, hv]

/-- A buffer that is not empty and wraps the address space or leaves plain memory is illegal (R47). -/
theorem bufferOk_eq_false {s : State} (hlen : 0 < s.bufLen)
    (h : 2 ^ s.platform.aw < s.bufAddr + s.bufLen ∨
      ∃ k, k < s.bufLen ∧ plainByte s.platform (s.bufAddr + k) = false) : bufferOk s = false := by
  rw [← Bool.not_eq_true, bufferOk_iff, memOk_iff]
  rintro (hempty | ⟨hend, hplain⟩)
  · omega
  · rcases h with hwraps | ⟨k, hk, hdevice⟩
    · omega
    · rw [hplain k hk] at hdevice
      cases hdevice

/-- Settles O32: of the four outcomes in `exec_data_cases` a passed check leaves two, and an illegal buffer the
refusal. -/
theorem illegalBufferStops : Obligations.IllegalBufferStops := by
  intro i s hi hok hlen hbuffer
  obtain ⟨hv, hblocks⟩ := (reportedErr_data_eq_ok_iff hi s).1 hok
  have hbad := bufferOk_eq_false hlen hbuffer
  rcases exec_data_cases hi s with ⟨hnone, -⟩ | ⟨-, hneeds, hpart, -⟩ | ⟨-, -, -, hstop⟩ | ⟨-, -, hgood, -⟩
  · simp [hv] at hnone
  · exact absurd (hblocks hneeds) hpart
  · exact hstop
  · simp [hbad] at hgood

end Sys2Proof.Proofs
end

section
/-! What a data command leaves in memory (`20_memory.md` R41): each turn of its loop stores inside its own chunk of the
buffer. -/

namespace Sys2Proof.Proofs
open Sys2Proof Sys2Proof.Machine

/-- One turn of a data command's loop: it keeps the frame, stores no byte outside the chunk at `OFF`, and moves `OFF` by
the chunk's length (R112, R127). -/
structure ChunkTurn (t u : State) : Prop where
  frame : DataFrame t u
  kept : ∀ a, a < t.bufAddr + t.off ∨ t.bufAddr + t.off + ctrChunkLen t ≤ a → readByte u.mem a = readByte t.mem a
  off : u.off = t.off + ctrChunkLen t

/-- A turn that stores one whole block. -/
theorem ChunkTurn.of_writeBlock {t u : State} {b : Block} (hwhole : ctrChunkLen t = 16) (hframe : DataFrame t u)
    (hmem : u.mem = writeBlock t.mem (t.bufAddr + t.off) b) (hoff : u.off = t.off + 16) : ChunkTurn t u := by
  refine ⟨hframe, fun a ha => ?_, hwhole ▸ hoff⟩
  rw [hmem, readByte_writeBlock, if_neg (by omega)]

theorem chunkTurn_ecbEncryptBody {t : State} (hwhole : ctrChunkLen t = 16) : ChunkTurn t (ecbEncryptBody t) :=
  .of_writeBlock hwhole (dataFrame_ecbEncryptBody t) (by rw [ecbEncryptBody_eq]) (by rw [ecbEncryptBody_eq])

theorem chunkTurn_ecbDecryptBody {t : State} (hwhole : ctrChunkLen t = 16) : ChunkTurn t (ecbDecryptBody t) :=
  .of_writeBlock hwhole (dataFrame_ecbDecryptBody t) (by rw [ecbDecryptBody_eq]) (by rw [ecbDecryptBody_eq])

theorem chunkTurn_cbcEncryptBody {t : State} (hwhole : ctrChunkLen t = 16) : ChunkTurn t (cbcEncryptBody t) :=
  .of_writeBlock hwhole (dataFrame_cbcEncryptBody t) (by rw [cbcEncryptBody_eq]) (by rw [cbcEncryptBody_eq])

theorem chunkTurn_cbcDecryptBody {t : State} (hwhole : ctrChunkLen t = 16) : ChunkTurn t (cbcDecryptBody t) :=
  .of_writeBlock hwhole (dataFrame_cbcDecryptBody t) (by rw [cbcDecryptBody_eq]) (by rw [cbcDecryptBody_eq])

theorem chunkTurn_ctrBody (t : State) : ChunkTurn t (ctrBody t) := by
  refine ⟨dataFrame_ctrBody t, fun a ha => ?_, by rw [ctrBody_eq]⟩
  rw [ctrBody_eq, readByte_memWrite, if_neg]
  rw [length_xorChunk, length_memRead]
  omega

/-- After `k` turns of a loop that began at `s`: the frame is kept, `OFF` is `16k`, but never beyond the buffer, and no
byte outside the buffer has been written. -/
structure InsideBuffer (s : State) (k : Nat) (t : State) : Prop where
  frame : DataFrame s t
  off : t.off = min (16 * k) s.bufLen
  kept : MemoryOutsideBufferKept s t

/-- In a buffer of whole blocks every chunk is a whole block. -/
theorem InsideBuffer.ctrChunkLen_eq {s t : State} {k : Nat} (ht : InsideBuffer s k t) (hk : k < chunkCount s.bufLen)
    (hlen : s.bufLen % 16 = 0) : ctrChunkLen t = 16 := by
  have hat := ht.off
  have hsize := ht.frame.bufLen
  have hcount : k < (s.bufLen + 15) / 16 := hk
  rw [ctrChunkLen]
  omega

/-- The chunk at `OFF` lies in the buffer, so a turn carries the invariant. -/
theorem InsideBuffer.turn {s t u : State} {k : Nat} (ht : InsideBuffer s k t) (hk : k < chunkCount s.bufLen)
    (hu : ChunkTurn t u) : InsideBuffer s (k + 1) u := by
  obtain ⟨hframe, hat, hkept⟩ := ht
  have haddr := hframe.bufAddr
  have hsize := hframe.bufLen
  have hchunk : ctrChunkLen t = min 16 (t.bufLen - t.off) := rfl
  have hcount : k < (s.bufLen + 15) / 16 := hk
  refine ⟨dataFrame_trans hframe hu.frame, ?_, fun a ha => ?_⟩
  · rw [hu.off]
    omega
  · rw [hu.kept a (by omega), hkept a ha]

/-- A loop whose turns each store inside their chunk writes no byte outside the buffer. -/
theorem memoryOutsideBufferKept_overBuffer {body : State → State} {s : State}
    (hbody : ∀ k t, InsideBuffer s k t → k < chunkCount s.bufLen → ChunkTurn t (body t)) :
    MemoryOutsideBufferKept s (overBuffer body s) :=
  (overBuffer_induction (P := InsideBuffer s) s ⟨dataFrame_off s 0, by simp, fun _ _ => rfl⟩
    fun k t hk ht => ht.turn hk (hbody k t ht hk)).kept

/-- The same for turns that store a whole block, over a buffer of whole blocks. -/
theorem memoryOutsideBufferKept_blocks {body : State → State}
    (hbody : ∀ {t : State}, ctrChunkLen t = 16 → ChunkTurn t (body t)) {s : State} (hlen : s.bufLen % 16 = 0) :
    MemoryOutsideBufferKept s (overBuffer body s) :=
  memoryOutsideBufferKept_overBuffer fun _ _ ht hk => hbody (ht.ctrChunkLen_eq hk hlen)

/-- Only what memory holds counts. -/
theorem memoryOutsideBufferKept_of_mem_eq {s t u : State} (ht : MemoryOutsideBufferKept s t) (hmem : u.mem = t.mem) :
    MemoryOutsideBufferKept s u := fun a ha => by rw [hmem, ht a ha]

/-- The loop of each data command stores inside the buffer, and what follows it writes registers only (R41). -/
theorem memoryOutsideBufferKept_bufferPass {i : Instr} (hi : isData i = true) {s : State}
    (hlen : needsBlocks i = true → s.bufLen % 16 = 0) : MemoryOutsideBufferKept s (bufferPass i s) := by
  cases i <;> simp only [isData, reduceCtorEq] at hi <;> rw [bufferPass]
  case ecbEncrypt =>
    refine memoryOutsideBufferKept_of_mem_eq (memoryOutsideBufferKept_blocks chunkTurn_ecbEncryptBody (hlen rfl)) ?_
    rw [ecbEncryptBuffer, releaseScratch_mem]
  case ecbDecrypt =>
    refine memoryOutsideBufferKept_of_mem_eq (memoryOutsideBufferKept_blocks chunkTurn_ecbDecryptBody (hlen rfl)) ?_
    rw [ecbDecryptBuffer, releaseScratch_mem]
  case cbcEncrypt =>
    have hloop : MemoryOutsideBufferKept { s with ch := s.chain } (cbcEncryptLoop s) :=
      memoryOutsideBufferKept_blocks chunkTurn_cbcEncryptBody (hlen rfl)
    refine memoryOutsideBufferKept_of_mem_eq hloop ?_
    rw [cbcEncryptBuffer, releaseCh_mem, releaseScratch_mem, chainFromCh_mem]
  case cbcDecrypt =>
    refine memoryOutsideBufferKept_of_mem_eq (memoryOutsideBufferKept_blocks chunkTurn_cbcDecryptBody (hlen rfl)) ?_
    rw [cbcDecryptBuffer, releaseNextIv_mem, releaseScratch_mem]
  case ctrXcrypt =>
    have hloop : MemoryOutsideBufferKept s (overBuffer ctrBody s) :=
      memoryOutsideBufferKept_overBuffer fun _ t _ _ => chunkTurn_ctrBody t
    refine memoryOutsideBufferKept_of_mem_eq hloop ?_
    rw [ctrBuffer, releaseKs_mem, releaseScratch_mem]

/-- Settles O50: of the completions of an instruction only the pass of a data command writes memory, and that inside the
buffer. -/
theorem instructionsWriteTheBufferOnly : Obligations.InstructionsWriteTheBufferOnly := by
  intro i s t h
  cases executed_of_exec h with
  | raised | built | ivSet | transformed => exact ⟨fun _ => rfl, fun _ _ => rfl⟩
  | passed hi hlen =>
    refine ⟨fun hno => by simp [hi] at hno, ?_⟩
    exact memoryOutsideBufferKept_of_mem_eq (memoryOutsideBufferKept_bufferPass hi hlen) (succeed_mem _)

end Sys2Proof.Proofs
end

section
/-! The decoder and the encoder (`30_encoding.md` R60 to R67): what each answers, by the fields of the word. -/

namespace Sys2Proof.Proofs
open Sys2Proof Sys2Proof.Machine

/-- The fields of the word of a NEW (R60). -/
theorem fields_of_new_word (variant mode : BitVec 2) :
    (0#1 ++ mode ++ variant ++ 1#3).getLsbD 7 = false ∧ cmdOp (0#1 ++ mode ++ variant ++ 1#3) = 1 ∧
    cmdVariant (0#1 ++ mode ++ variant ++ 1#3) = variant ∧ cmdMode (0#1 ++ mode ++ variant ++ 1#3) = mode := by
  revert variant mode; decide

/-- A command word with bit 7 clear is its three other fields (R60). -/
theorem word_eq_fields {w : BitVec 8} (h : w.getLsbD 7 = false) :
    0#1 ++ cmdMode w ++ cmdVariant w ++ cmdOp w = w := by
  revert w; decide

/-- The decoder at the word of a NEW looks at its two fields only. -/
theorem decodeCmd_new_word (variant mode : BitVec 2) : decodeCmd (0#1 ++ mode ++ variant ++ 1#3) =
    if variant = 3 then .reject .reservedVariant
    else if mode = 3 then .reject .reservedMode
    else .instr (.new variant mode) := by
  obtain ⟨hbit7, hop, hvariant, hmode⟩ := fields_of_new_word variant mode
  rw [decodeCmd, hbit7, hop, hvariant, hmode, if_neg (by decide), if_neg (by decide), if_pos rfl]

theorem wellFormed_new_iff (variant mode : BitVec 2) :
    wellFormed (.new variant mode) = true ↔ variant ≠ 3 ∧ mode ≠ 3 := by
  simp only [wellFormed, Bool.and_eq_true, bne_iff_ne]

/-- The word of a NEW decodes to it when neither field is reserved (R62, R63). -/
theorem decode_encode_new (variant mode : BitVec 2) :
    decode (encode (.new variant mode)) = .instr (.new variant mode) ↔ wellFormed (.new variant mode) = true := by
  rw [wellFormed_new_iff, encode, decode, decodeCmd_new_word]
  split_ifs with hvariant hmode
  · exact iff_of_false nofun fun h => h.1 hvariant
  · exact iff_of_false nofun fun h => h.2 hmode
  · exact iff_of_true rfl ⟨hvariant, hmode⟩

/-- Only NEW has fields, so only there the encoding can leave the legal codes. -/
theorem decode_encode_iff (i : Instr) : decode (encode i) = .instr i ↔ wellFormed i = true := by
  cases i with
  | new variant mode => exact decode_encode_new variant mode
  | setIv | ecbEncrypt | ecbDecrypt | cbcEncrypt | cbcDecrypt | ctrXcrypt => exact iff_of_true rfl rfl
  | subBytes | shiftRows | mixColumns | addRoundKey => exact iff_of_true rfl rfl
  | invSubBytes | invShiftRows | invMixColumns => exact iff_of_true rfl rfl

/-- An accepted command word is a NEW with two legal fields, or another command with both fields zero (R61 to R65). -/
theorem decodeCmd_eq_instr {w : BitVec 8} {i : Instr} (h : decodeCmd w = .instr i) :
    w.getLsbD 7 = false ∧
    ((cmdOp w = 1 ∧ cmdVariant w ≠ 3 ∧ cmdMode w ≠ 3 ∧ i = .new (cmdVariant w) (cmdMode w)) ∨
     (cmdVariant w = 0 ∧ cmdMode w = 0 ∧ plainCommand (cmdOp w) = .instr i)) := by
  unfold decodeCmd at h
  split_ifs at h with hbit7 hzero hnew hvariant hmode hstray
  · exact ⟨by simpa using hbit7, .inl ⟨hnew, hvariant, hmode, (Decoded.instr.inj h).symm⟩⟩
  · obtain ⟨hvariant, hmode⟩ := not_or.1 hstray
    exact ⟨by simpa using hbit7, .inr ⟨not_not.1 hvariant, not_not.1 hmode, h⟩⟩

/-- A command without fields is well formed, and its code is its operation in a word of zero fields (R61, R65). -/
theorem encode_of_plainCommand {op : BitVec 3} {i : Instr} (h : plainCommand op = .instr i) :
    wellFormed i = true ∧ encode i = .cmd (0#1 ++ 0#2 ++ 0#2 ++ op) := by
  unfold plainCommand at h
  split_ifs at h
  all_goals
    cases h
    subst op
    exact ⟨rfl, rfl⟩

theorem encode_of_decodeCmd {w : BitVec 8} {i : Instr} (h : decodeCmd w = .instr i) :
    wellFormed i = true ∧ encode i = .cmd w := by
  obtain ⟨hbit7, ⟨hop, hvariant, hmode, rfl⟩ | ⟨hvariant, hmode, hplain⟩⟩ := decodeCmd_eq_instr h
  · refine ⟨(wellFormed_new_iff _ _).2 ⟨hvariant, hmode⟩, ?_⟩
    have hw := word_eq_fields hbit7
    rw [hop] at hw
    exact congrArg Code.cmd hw
  · obtain ⟨hwf, henc⟩ := encode_of_plainCommand hplain
    have hw := word_eq_fields hbit7
    rw [hvariant, hmode] at hw
    exact ⟨hwf, henc.trans (congrArg Code.cmd hw)⟩

theorem encode_of_decodeUop {c : BitVec 4} {i : Instr} (h : decodeUop c = .instr i) :
    wellFormed i = true ∧ encode i = .uop c := by
  unfold decodeUop at h
  split_ifs at h
  all_goals
    cases h
    subst c
    exact ⟨rfl, rfl⟩

/-- Settles O3: `decode_encode_iff`, and for each carrier the decoder inverted along its branches. -/
theorem decodeAndEncodeAgree : Obligations.DecodeAndEncodeAgree := by
  refine ⟨decode_encode_iff, fun c i h => ?_⟩
  cases c with
  | cmd w => exact encode_of_decodeCmd h
  | uop c => exact encode_of_decodeUop h

/-- Settles O4: the decoder evaluated on each listed code. -/
theorem sampleWordsDecode : Obligations.SampleWordsDecode := by
  refine ⟨?commandsNew, ?commandsPlain, ?illegalWords, ?microOps⟩ <;> decide

end Sys2Proof.Proofs
end

section
/-! Which operands an instruction reads (`30_encoding.md` R64, `93_implementation_defined.md` U1): an instruction run with
other values in the operands it does not read does the same. -/

namespace Sys2Proof.Proofs
open Sys2Proof Sys2Proof.Machine

theorem mapNext_congr {f g : State → State} {o : Outcome} (h : ∀ u, o = .next u → f u = g u) :
    mapNext f o = mapNext g o := by
  cases o with
  | next u => exact congrArg Host.Outcome.next (h u rfl)
  | fault | refused => rfl

/-! The data commands (R64). -/

/-- What a data command does not read, the Mode and the key and IV operands, as `t` holds it, put into `u`. -/
def withUnreadOf (t u : State) : State :=
  { u with mode := t.mode, keyIn := t.keyIn, keyLen := t.keyLen, ivIn := t.ivIn, ivLen := t.ivLen }

theorem blockLoop_eq_iterate (body : State → State) (n : Nat) : blockLoop body n = body^[n] := by
  induction n with
  | zero => rfl
  | succ n ih => funext s; rw [blockLoop, ih, Function.iterate_succ_apply]

/-- A loop ignores the unread registers when each of its turns does. -/
theorem overBuffer_withUnreadOf {body : State → State} {t : State} (hbody : Function.Commute body (withUnreadOf t))
    (s : State) : overBuffer body (withUnreadOf t s) = withUnreadOf t (overBuffer body s) := by
  have hturns := (hbody.iterate_left (chunkCount s.bufLen)).eq { s with off := 0 }
  rwa [← blockLoop_eq_iterate] at hturns

theorem ecbEncryptBody_withUnreadOf (t s : State) :
    ecbEncryptBody (withUnreadOf t s) = withUnreadOf t (ecbEncryptBody s) := by
  simp only [ecbEncryptBody_eq, withUnreadOf]

theorem ecbDecryptBody_withUnreadOf (t s : State) :
    ecbDecryptBody (withUnreadOf t s) = withUnreadOf t (ecbDecryptBody s) := by
  simp only [ecbDecryptBody_eq, withUnreadOf]

theorem cbcEncryptBody_withUnreadOf (t s : State) :
    cbcEncryptBody (withUnreadOf t s) = withUnreadOf t (cbcEncryptBody s) := by
  simp only [cbcEncryptBody_eq, cbcCipherBlock, withUnreadOf]

theorem cbcDecryptBody_withUnreadOf (t s : State) :
    cbcDecryptBody (withUnreadOf t s) = withUnreadOf t (cbcDecryptBody s) := by
  simp only [cbcDecryptBody_eq, cbcPlainBlock, withUnreadOf]

theorem ctrBody_withUnreadOf (t s : State) : ctrBody (withUnreadOf t s) = withUnreadOf t (ctrBody s) := by
  simp only [ctrBody_eq, ctrKeystream, ctrChunkLen, withUnreadOf]

/-- The pass of a data command ignores the unread registers: its loop does, and what follows it writes scratch and `CHAIN`
from other registers. -/
theorem bufferPass_withUnreadOf {i : Instr} (hi : isData i = true) (t s : State) :
    bufferPass i (withUnreadOf t s) = withUnreadOf t (bufferPass i s) := by
  cases i <;> simp only [isData, reduceCtorEq] at hi <;> simp only [bufferPass]
  case ecbEncrypt => rw [ecbEncryptBuffer, overBuffer_withUnreadOf (ecbEncryptBody_withUnreadOf t)]; rfl
  case ecbDecrypt => rw [ecbDecryptBuffer, overBuffer_withUnreadOf (ecbDecryptBody_withUnreadOf t)]; rfl
  case cbcEncrypt =>
    have hloop : cbcEncryptLoop (withUnreadOf t s) = withUnreadOf t (cbcEncryptLoop s) :=
      overBuffer_withUnreadOf (cbcEncryptBody_withUnreadOf t) { s with ch := s.chain }
    rw [cbcEncryptBuffer, hloop]; rfl
  case cbcDecrypt => rw [cbcDecryptBuffer, overBuffer_withUnreadOf (cbcDecryptBody_withUnreadOf t)]; rfl
  case ctrXcrypt => rw [ctrBuffer, overBuffer_withUnreadOf (ctrBody_withUnreadOf t)]; rfl

@[simp] theorem withUnreadOf_valid (t s : State) : (withUnreadOf t s).valid = s.valid := by simp only [withUnreadOf]

@[simp] theorem withUnreadOf_bufLen (t s : State) : (withUnreadOf t s).bufLen = s.bufLen := by simp only [withUnreadOf]

@[simp] theorem bufferOk_withUnreadOf (t s : State) : bufferOk (withUnreadOf t s) = bufferOk s := by
  simp only [bufferOk, withUnreadOf]; rfl

/-- A data command ignores the unread registers: its checks do not look at them, nor does its pass. -/
theorem exec_data_withUnreadOf {i : Instr} (hi : isData i = true) (t s : State) :
    exec i (withUnreadOf t s) = mapNext (withUnreadOf t) (exec i s) := by
  simp only [exec_data hi, dataCommand, withUnreadOf_valid, withUnreadOf_bufLen, bufferOk_withUnreadOf]
  split_ifs
  · rfl
  · rfl
  · rfl
  · rw [bufferPass_withUnreadOf hi]; rfl

theorem isCommand_of_isData {i : Instr} (hi : isData i = true) : isCommand i = true := by
  cases i <;> simp only [isData, reduceCtorEq] at hi <;> rfl

/-- A data command that completes keeps the frame, whether it reports an error or passes over its buffer. -/
theorem dataFrame_of_exec {i : Instr} (hi : isData i = true) {s u : State} (h : exec i s = .next u) :
    DataFrame s u := by
  cases executed_of_exec h with
  | raised => constructor <;> rfl
  | passed => exact dataFrame_succeed_bufferPass hi s
  | built _ _ hnew => simp [hnew, isData] at hi
  | ivSet hset => simp [hset, isData] at hi
  | transformed _ _ hmicro => simp [isCommand_of_isData hi] at hmicro

/-- A data command run at `t`, which differs from `s` in unread registers only: its next state is that from `s` with those
registers put in, by any `f` that does so within the frame. -/
theorem exec_data_of_unread {i : Instr} (hi : isData i = true) {s t : State} (ht : t = withUnreadOf t s)
    {f : State → State} (hf : ∀ u, DataFrame s u → f u = withUnreadOf t u) : exec i t = mapNext f (exec i s) := by
  calc exec i t = exec i (withUnreadOf t s) := congrArg (exec i) ht
    _ = mapNext (withUnreadOf t) (exec i s) := exec_data_withUnreadOf hi t s
    _ = mapNext f (exec i s) := mapNext_congr fun u hu => (hf u (dataFrame_of_exec hi hu)).symm

/-! NEW, SET_IV and the micro-operations. -/

/-- The context NEW builds depends on the key operand and `IV_IN` only (R140). -/
theorem buildContext_withOperandsOf {s t : State} (v : Variant) (m : Mode) (hkey : keyOperand t = keyOperand s)
    (hiv : t.ivIn = s.ivIn) : buildContext v m (withOperandsOf t s) = withOperandsOf t (buildContext v m s) := by
  have hoperand : keyOperand (withOperandsOf t s) = keyOperand s := hkey
  rw [buildContext, buildContext, hoperand]
  simp only [withOperandsOf, hiv, releaseKi, succeed]

/-- NEW reads the two lengths, the key operand, and `IV_IN` where `IV_LEN` is 16 (R140). -/
theorem exec_new_withOperandsOf {vc mc : BitVec 2} {s t : State} (hkeyLen : t.keyLen = s.keyLen)
    (hivLen : t.ivLen = s.ivLen) (hkey : keyOperand t = keyOperand s) (hiv : s.ivLen.toNat = 16 → t.ivIn = s.ivIn) :
    exec (.new vc mc) (withOperandsOf t s) = mapNext (withOperandsOf t) (exec (.new vc mc) s) := by
  simp only [exec, execNew, withOperandsOf_keyLen, withOperandsOf_ivLen, hkeyLen, hivLen]
  cases variantOfCode vc with
  | none => rfl
  | some v =>
    cases modeOfCode mc with
    | none => rfl
    | some m =>
      dsimp only
      split_ifs with hk hl
      · rfl
      · rfl
      · exact congrArg Host.Outcome.next (buildContext_withOperandsOf v m hkey (hiv (not_not.1 hl)))

/-- SET_IV reads `IV_LEN`, and `IV_IN` where that is 16 (R141). -/
theorem exec_setIv_withOperandsOf {s t : State} (hivLen : t.ivLen = s.ivLen)
    (hiv : s.ivLen.toNat = 16 → t.ivIn = s.ivIn) :
    exec .setIv (withOperandsOf t s) = mapNext (withOperandsOf t) (exec .setIv s) := by
  simp only [exec, execSetIv, withOperandsOf_valid, withOperandsOf_ivLen, withOperandsOf_ivIn, hivLen]
  split_ifs with hv hl
  · rfl
  · rfl
  · simp only [mapNext, succeed, withOperandsOf, hivLen, hiv (not_not.1 hl)]

/-- A micro-operation reads no operand (R108). -/
theorem exec_microOp_withOperandsOf {i : Instr} (hi : isCommand i = false) (s t : State) :
    exec i (withOperandsOf t s) = mapNext (withOperandsOf t) (exec i s) := by
  cases i <;> simp only [isCommand, reduceCtorEq] at hi
  case addRoundKey =>
    simp only [exec, execAddRoundKey, withOperandsOf_rnd, withOperandsOf_variant]
    split_ifs <;> rfl
  all_goals rfl

/-! The record of written operands (U1, log 2). -/

/-- Byte strings that agree where written agree on their first `n` bytes when those are written. -/
theorem take_eq_of_written {k n : Nat} {written : Vector Bool k} {a b : Vector Byte k}
    (hw : (written.toList.take n).all id = true) (hab : ∀ j : Fin k, written[j] = true → a[j] = b[j]) :
    a.toList.take n = b.toList.take n := by
  refine List.ext_getElem (by simp) fun j hja hjb => ?_
  obtain ⟨hjn, hjk⟩ : j < n ∧ j < k := lt_min_iff.1 (by simpa using hja)
  have hwj : written[j] = true :=
    List.all_eq_true.1 hw _ (List.mem_take_iff_getElem.2 ⟨j, by simpa using ⟨hjn, hjk⟩, by simp⟩)
  simpa using hab ⟨j, hjk⟩ hwj

section
variable {i : Instr} {s t : State} (h : AgreeWhereWritten s t)
include h

theorem keyOperand_of_agree (hlen : t.keyLen = s.keyLen)
    (hw : (s.written.keyIn.toList.take s.keyLen.toNat).all id = true) : keyOperand t = keyOperand s := by
  rw [keyOperand, keyOperand, hlen, take_eq_of_written hw h.keyIn]

/-- A written IV of 16 bytes is the whole of `IV_IN`. -/
theorem ivIn_of_agree (hw : (s.written.ivIn.toList.take s.ivLen.toNat).all id = true) (hlen : s.ivLen.toNat = 16) :
    t.ivIn = s.ivIn := by
  have hbytes := take_eq_of_written hw h.ivIn
  rw [hlen, List.take_of_length_le (by simp), List.take_of_length_le (by simp)] at hbytes
  exact Vector.toList_inj.1 hbytes

theorem exec_data_of_agree (hi : isData i = true) (hw : operandsWritten i s = true) :
    exec i t = mapNext (withOperandsOf t) (exec i s) := by
  have hbuffer : s.written.bufAddr = true ∧ s.written.bufLen = true := by
    cases i <;> simp only [isData, reduceCtorEq] at hi <;> simpa [operandsWritten] using hw
  obtain ⟨hbufAddr, hbufLen⟩ := hbuffer
  have hmode : t.mode = s.mode := by rw [h.others, withOperandsOf_mode]
  have hput : ∀ u, DataFrame s u → withOperandsOf t u = withUnreadOf t u := fun u hu => by
    rw [withOperandsOf, withUnreadOf, h.bufAddr hbufAddr, h.bufLen hbufLen, hmode, ← hu.bufAddr, ← hu.bufLen,
      ← hu.mode]
  exact exec_data_of_unread hi (h.others.trans (hput s (dataFrame_refl s))) hput

/-- An instruction whose operands are written ignores what the unwritten ones hold (U1). -/
theorem exec_of_agree (hw : operandsWritten i s = true) : exec i t = mapNext (withOperandsOf t) (exec i s) := by
  have hthere : exec i t = exec i (withOperandsOf t s) := congrArg (exec i) h.others
  cases i with
  | new vc mc =>
    simp only [operandsWritten, Bool.and_eq_true] at hw
    obtain ⟨⟨⟨hkeyLen, hivLen⟩, hkeyIn⟩, hivIn⟩ := hw
    exact hthere.trans (exec_new_withOperandsOf (h.keyLen hkeyLen) (h.ivLen hivLen)
      (keyOperand_of_agree h (h.keyLen hkeyLen) hkeyIn) (ivIn_of_agree h hivIn))
  | setIv =>
    simp only [operandsWritten, Bool.and_eq_true] at hw
    obtain ⟨hivLen, hivIn⟩ := hw
    exact hthere.trans (exec_setIv_withOperandsOf (h.ivLen hivLen) (ivIn_of_agree h hivIn))
  | ecbEncrypt | ecbDecrypt | cbcEncrypt | cbcDecrypt | ctrXcrypt => exact exec_data_of_agree h rfl hw
  | subBytes | shiftRows | mixColumns | addRoundKey => exact hthere.trans (exec_microOp_withOperandsOf rfl s t)
  | invSubBytes | invShiftRows | invMixColumns => exact hthere.trans (exec_microOp_withOperandsOf rfl s t)

end

/-! The step. -/

theorem fetch_withOperandsOf (t s : State) :
    fetch (withOperandsOf t s) = ((fetch s).1, withOperandsOf t (fetch s).2) := by
  unfold fetch
  simp only [withOperandsOf_uop, withOperandsOf_host, withOperandsOf_busy]
  split <;> rfl

/-- Fetching takes an entry off a port. -/
theorem fetch_frame (s : State) : ∃ uop host, (fetch s).2 = { s with uop := uop, host := host } := by
  unfold fetch
  split
  · exact ⟨none, s.host, rfl⟩
  · exact ⟨s.uop, s.host, rfl⟩
  · exact ⟨s.uop, _, rfl⟩
  · exact ⟨s.uop, _, rfl⟩

theorem step_of_fetch_run {s : State} {i : Instr} (hf : (fetch s).1 = .run i) : step s = exec i (fetch s).2 := by
  have hfetch : fetch s = (.run i, (fetch s).2) := Prod.ext hf rfl
  rw [step, hfetch]

/-- What was fetched runs at states that agree where written as well, under the same record. -/
theorem agree_fetch {s t : State} (h : AgreeWhereWritten s t) :
    AgreeWhereWritten (fetch s).2 (withOperandsOf t (fetch s).2) := by
  obtain ⟨uop, host, hfetch⟩ := fetch_frame s
  rw [hfetch]
  exact ⟨rfl, h.keyLen, h.ivLen, h.bufAddr, h.bufLen, h.keyIn, h.ivIn⟩

theorem operandsWritten_fetch (i : Instr) (s : State) : operandsWritten i (fetch s).2 = operandsWritten i s := by
  obtain ⟨uop, host, hfetch⟩ := fetch_frame s
  rw [hfetch]
  rfl

/-- A step that runs an instruction ignores the operands the instruction ignores: the fetch looks at no operand. -/
theorem step_of_agree {i : Instr} {s t : State} (hf : (fetch s).1 = .run i) (hw : operandsWritten i s = true)
    (h : AgreeWhereWritten s t) : step t = mapNext (withOperandsOf t) (step s) := by
  have hfetch : fetch t = (.run i, withOperandsOf t (fetch s).2) := by
    rw [← hf, ← fetch_withOperandsOf]; exact congrArg fetch h.others
  calc step t = exec i (withOperandsOf t (fetch s).2) := by rw [step, hfetch]
    _ = mapNext (withOperandsOf t) (exec i (fetch s).2) :=
      exec_of_agree (agree_fetch h) ((operandsWritten_fetch i s).trans hw)
    _ = mapNext (withOperandsOf t) (step s) := by rw [step_of_fetch_run hf]

/-- Settles O41: the key and IV operands are among the unread registers of a data command, and `exec_of_agree` and
`step_of_agree` are the two clauses about unwritten operands. -/
theorem dataCommandsReadBufferOperandsOnly : Obligations.DataCommandsReadBufferOperandsOnly := by
  refine ⟨fun i s k kl il iv hi => ?_, fun _ _ _ hw h => exec_of_agree h hw, fun i s t hf hspec h => ?_⟩
  · exact exec_data_of_unread hi (t := { s with keyIn := k, keyLen := kl, ivIn := iv, ivLen := il }) rfl
      fun u hu => by rw [withUnreadOf, ← hu.mode]
  · simp only [stepInSpec, hf, Bool.and_eq_true] at hspec
    obtain ⟨-, hw⟩ := hspec
    exact step_of_agree hf hw h

end Sys2Proof.Proofs
end

section
/-! The arithmetic of GF(2^8) (`40_tables_gf.md` R80 to R82): what `xtime` and `gmul` do to a byte's class modulo the
field's polynomial, and the definition of `SBOX` by an inverse and an affine map (R86). -/

namespace Sys2Proof.Proofs
open Sys2Proof Sys2Proof.Machine Polynomial

/-! `xtime`. -/

/-- A left shift by one doubles the byte and drops the bit shifted out. -/
theorem shiftLeft_one_eq_ofNat (b : Byte) : b <<< 1 = BitVec.ofNat 8 (2 * b.toNat) :=
  BitVec.eq_of_toNat_eq (by simp [Nat.shiftLeft_eq, Nat.mul_comm])

/-- The reduction as one XOR: with 1b or with nothing. -/
theorem xtime_eq_xor (b : Byte) : xtime b = (b <<< 1) ^^^ (if b.getLsbD 7 then 0x1b else 0) := by
  by_cases h : b.getLsbD 7
  · rw [xtime, if_pos h, if_pos h]
  · rw [xtime, if_neg h, if_neg h]; exact BitVec.xor_zero.symm

/-- Settles O9. -/
theorem xtimeShiftsAndReduces : Obligations.XtimeShiftsAndReduces := by
  intro b
  rw [← shiftLeft_one_eq_ofNat, xtime]

/-! Bytes as polynomials. -/

/-- The polynomial a byte stands for (R80). -/
noncomputable def bytePoly (b : Byte) : (ZMod 2)[X] := ∑ i ∈ Finset.range 8, if b.getLsbD i then X ^ i else 0

/-- The polynomial R80 reduces by, 11b. -/
noncomputable def fieldPoly : (ZMod 2)[X] := X ^ 8 + X ^ 4 + X ^ 3 + X + 1

/-- XOR is addition: in each coefficient, because `1 + 1 = 0` there. -/
theorem bytePoly_xor (a b : Byte) : bytePoly (a ^^^ b) = bytePoly a + bytePoly b := by
  rw [bytePoly, bytePoly, bytePoly, ← Finset.sum_add_distrib]
  refine Finset.sum_congr rfl fun i _ => ?_
  rw [BitVec.getLsbD_xor]
  cases a.getLsbD i <;> cases b.getLsbD i <;> simp [CharTwo.add_self_eq_zero]

/-- Multiplying by `x` shifts the byte left by one; the bit shifted out stands for `x^8`. -/
theorem X_mul_bytePoly (b : Byte) :
    X * bytePoly b = bytePoly (b <<< 1) + if b.getLsbD 7 then X ^ 8 else 0 := by
  have hterm : ∀ i ∈ Finset.range 7, (if (b <<< 1).getLsbD (i + 1) then X ^ (i + 1) else 0 : (ZMod 2)[X]) =
      X * if b.getLsbD i then X ^ i else 0 := fun i hi => by
    have hlt : i + 1 < 8 := Nat.succ_lt_succ (Finset.mem_range.1 hi)
    have hbit : (b <<< 1).getLsbD (i + 1) = b.getLsbD i := by simp [-BitVec.getLsbD_eq_getElem, hlt]
    rw [hbit, mul_ite, mul_zero, pow_succ']
  calc X * bytePoly b
      = X * (∑ i ∈ Finset.range 7, if b.getLsbD i then X ^ i else 0) + X * if b.getLsbD 7 then X ^ 7 else 0 := by
        rw [bytePoly, Finset.sum_range_succ, mul_add]
    _ = bytePoly (b <<< 1) + if b.getLsbD 7 then X ^ 8 else 0 := by
        rw [bytePoly, Finset.sum_range_succ' _ 7, Finset.sum_congr rfl hterm, Finset.mul_sum]
        simp [← pow_succ']

/-- 1b is what `x^8` leaves, as `-1 = 1` in each coefficient. -/
theorem fieldPoly_eq_X_pow_sub : fieldPoly = X ^ 8 - bytePoly 0x1b := by
  have hbits : bytePoly 0x1b = 1 + X + X ^ 3 + X ^ 4 := by simp [bytePoly, Finset.sum_range_succ]
  rw [fieldPoly, hbits, CharTwo.sub_eq_add]
  ring

/-! Bytes as elements of the field: their polynomials modulo `fieldPoly`. -/

/-- The element of GF(2^8) a byte stands for (R80). -/
noncomputable def fieldElem (b : Byte) : AdjoinRoot fieldPoly := AdjoinRoot.mk fieldPoly (bytePoly b)

@[simp] theorem fieldElem_zero : fieldElem 0 = 0 := by simp [fieldElem, bytePoly]

theorem fieldElem_xor (a b : Byte) : fieldElem (a ^^^ b) = fieldElem a + fieldElem b := by
  rw [fieldElem, bytePoly_xor, map_add, fieldElem, fieldElem]

/-- The field reduces `x^8` to 1b. -/
theorem root_pow_eight : AdjoinRoot.root fieldPoly ^ 8 = fieldElem 0x1b := by
  rw [← AdjoinRoot.mk_X, ← map_pow, fieldElem, AdjoinRoot.mk_eq_mk, ← fieldPoly_eq_X_pow_sub]

/-- `xtime` multiplies by `x`. -/
theorem fieldElem_xtime (b : Byte) : fieldElem (xtime b) = AdjoinRoot.root fieldPoly * fieldElem b := by
  have hshift : AdjoinRoot.root fieldPoly * fieldElem b =
      fieldElem (b <<< 1) + if b.getLsbD 7 then AdjoinRoot.root fieldPoly ^ 8 else 0 := by
    have h := congrArg (AdjoinRoot.mk fieldPoly) (X_mul_bytePoly b)
    rwa [map_mul, map_add, apply_ite (AdjoinRoot.mk fieldPoly), map_pow, map_zero, AdjoinRoot.mk_X] at h
  rw [xtime_eq_xor, fieldElem_xor, hshift, root_pow_eight, apply_ite fieldElem, fieldElem_zero]

/-- The loop of `gmul` adds to `acc` the product of `p` and the polynomial of the bits of `k` still to come. -/
theorem fieldElem_gmulFrom (k : Byte) (n i : Nat) (p acc : Byte) :
    fieldElem (gmulFrom k n i p acc) = fieldElem acc +
      fieldElem p * ∑ j ∈ Finset.range n, if k.getLsbD (i + j) then AdjoinRoot.root fieldPoly ^ j else 0 := by
  induction n generalizing i p acc with
  | zero => simp [gmulFrom]
  | succ n ih =>
    have hacc : fieldElem (if k.getLsbD i then acc ^^^ p else acc) =
        fieldElem acc + fieldElem p * if k.getLsbD i then 1 else 0 := by
      split <;> simp [fieldElem_xor]
    have hrest : ∀ j, (if k.getLsbD (i + (j + 1)) then AdjoinRoot.root fieldPoly ^ (j + 1) else 0) =
        AdjoinRoot.root fieldPoly * if k.getLsbD (i + 1 + j) then AdjoinRoot.root fieldPoly ^ j else 0 := fun j => by
      rw [mul_ite, mul_zero, ← pow_succ', Nat.add_right_comm, Nat.add_assoc]
    rw [gmulFrom, ih, hacc, fieldElem_xtime, Finset.sum_range_succ', Finset.sum_congr rfl fun j _ => hrest j,
      ← Finset.mul_sum, Nat.add_zero i, pow_zero]
    ring

/-- `gmul` is the multiplication of the field. -/
theorem fieldElem_gmul (b k : Byte) : fieldElem (gmul b k) = fieldElem b * fieldElem k := by
  have hk : fieldElem k = ∑ j ∈ Finset.range 8, if k.getLsbD (0 + j) then AdjoinRoot.root fieldPoly ^ j else 0 := by
    simp [fieldElem, bytePoly, apply_ite (AdjoinRoot.mk fieldPoly)]
  rw [gmul, fieldElem_gmulFrom, ← hk, fieldElem_zero, zero_add]

/-- Settles O10: equal elements of the field are polynomials whose difference `fieldPoly` divides. -/
theorem gmulMultipliesInTheField : Obligations.GmulMultipliesInTheField := by
  refine ⟨bytePoly_xor, fun b k => ?_⟩
  have h : AdjoinRoot.mk fieldPoly (bytePoly b * bytePoly k) = AdjoinRoot.mk fieldPoly (bytePoly (gmul b k)) := by
    rw [map_mul]; exact (fieldElem_gmul b k).symm
  exact AdjoinRoot.mk_eq_mk.1 h

/-! The definition of `SBOX` (R86). -/

/-- The affine map of R86 (a). -/
def sboxAffine (c : Byte) : Byte :=
  c ^^^ c.rotateLeft 1 ^^^ c.rotateLeft 2 ^^^ c.rotateLeft 3 ^^^ c.rotateLeft 4 ^^^ 0x63

/-- The inverse of the affine map. -/
def sboxAffineInv (s : Byte) : Byte := s.rotateLeft 1 ^^^ s.rotateLeft 3 ^^^ s.rotateLeft 6 ^^^ 0x05

/-- The maps' bit rotations cancel; checked on every byte. -/
theorem sboxAffine_sboxAffineInv : ∀ s : Byte, sboxAffine (sboxAffineInv s) = s := by decide +kernel

/-- The check of the 255 entries whose index has an inverse (log 16). -/
theorem gmul_sboxAffineInv_sbox : ∀ b : Byte, b ≠ 0 → gmul b (sboxAffineInv (sbox b)) = 1 := by decide +kernel

/-- Settles O11: undoing the affine map on an entry gives the inverse of its index. -/
theorem sboxIsAffineOfInverse : Obligations.SboxIsAffineOfInverse := by
  intro b
  refine ⟨sboxAffineInv (sbox b), ?_, (sboxAffine_sboxAffineInv (sbox b)).symm⟩
  by_cases hb : b = 0
  · subst hb; exact .inl ⟨rfl, by decide⟩
  · exact .inr (gmul_sboxAffineInv_sbox b hb)

end Sys2Proof.Proofs
end

section
/-! The bytes as a field (`40_tables_gf.md` R80): a byte is determined by its element of GF(2^8), so that identities of
`gmul` and XOR are identities of the field. -/

namespace Sys2Proof.Proofs
open Sys2Proof Sys2Proof.Machine Polynomial

/-- The bits of a byte are the coefficients of its polynomial. -/
theorem coeff_bytePoly (b : Byte) (i : Nat) : (bytePoly b).coeff i = if b.getLsbD i then 1 else 0 := by
  have hterm : ∀ j, (if b.getLsbD j then X ^ j else 0 : (ZMod 2)[X]).coeff i =
      if i = j then (if b.getLsbD j then 1 else 0) else 0 := fun j => by
    rw [apply_ite (coeff · i), coeff_X_pow, coeff_zero]
    split_ifs <;> rfl
  rw [bytePoly, finsetSum_coeff, Finset.sum_congr rfl fun j _ => hterm j, Finset.sum_ite_eq]
  by_cases hi : i < 8
  · rw [if_pos (Finset.mem_range.2 hi)]
  · rw [if_neg (mt Finset.mem_range.1 hi), BitVec.getLsbD_of_ge b i (Nat.le_of_not_lt hi)]; rfl

theorem eq_zero_of_bytePoly_eq_zero {b : Byte} (h : bytePoly b = 0) : b = 0 := by
  refine BitVec.eq_of_getLsbD_eq fun i _ => ?_
  have hbit := coeff_bytePoly b i
  rw [h, coeff_zero] at hbit
  cases hb : b.getLsbD i
  · exact BitVec.getLsbD_zero.symm
  · rw [hb] at hbit; exact absurd hbit zero_ne_one

theorem degree_bytePoly_lt (b : Byte) : (bytePoly b).degree < 8 := by
  refine (degree_lt_iff_coeff_zero _ 8).2 fun i hi => ?_
  rw [coeff_bytePoly, BitVec.getLsbD_of_ge b i hi]; rfl

theorem degree_fieldPoly : fieldPoly.degree = 8 := by
  rw [fieldPoly_eq_X_pow_sub, degree_sub_eq_left_of_degree_lt] <;> rw [degree_X_pow]
  · rfl
  · exact degree_bytePoly_lt _

/-- Only the byte 0 has a polynomial that `fieldPoly` divides. -/
theorem eq_zero_of_fieldElem_eq_zero {b : Byte} (h : fieldElem b = 0) : b = 0 := by
  refine eq_zero_of_bytePoly_eq_zero (eq_zero_of_dvd_of_degree_lt (AdjoinRoot.mk_eq_zero.1 h) ?_)
  rw [degree_fieldPoly]; exact degree_bytePoly_lt b

theorem fieldElem_injective : Function.Injective fieldElem := fun a b h => by
  have hsum : fieldElem (a ^^^ b) = 0 := by
    rw [fieldElem_xor, h, ← fieldElem_xor, BitVec.xor_self]; exact fieldElem_zero
  exact BitVec.xor_eq_zero_iff.1 (eq_zero_of_fieldElem_eq_zero hsum)

theorem fieldElem_one : fieldElem 1 = 1 := by
  simp [fieldElem, bytePoly]

theorem gmul_one (b : Byte) : gmul b 1 = b :=
  fieldElem_injective (by rw [fieldElem_gmul, fieldElem_one, mul_one])

end Sys2Proof.Proofs
end

section
/-! The State transforms (`42_state_transform.md` R100 to R107): what each does to the byte of row `r` and column `c`,
the micro-operations that run them, and the transforms that undo each other. -/

namespace Sys2Proof.Proofs
open Sys2Proof Sys2Proof.Machine

/-! A block, by its bytes. -/

theorem byteAt_ofFn (f : Fin 16 → Byte) {j : Nat} (hj : j < 16) : byteAt (Vector.ofFn f) j = f ⟨j, hj⟩ := by
  rw [byteAt_eq hj, Vector.getElem_ofFn]

/-- A block is its 4 columns of 4 bytes (R100). -/
theorem block_ext_columns {a b : Block}
    (h : ∀ c r, c < 4 → r < 4 → byteAt a (4 * c + r) = byteAt b (4 * c + r)) : a = b :=
  block_ext fun j hj => by
    have hbyte := h (j / 4) (j % 4) (by omega) (by omega)
    rwa [Nat.div_add_mod] at hbyte

/-- Offset `4c + r` is in column `c`. -/
theorem column_of_offset {c r : Nat} (hr : r < 4) : (4 * c + r) / 4 = c := by omega

/-- Offset `4c + r` is in row `r`. -/
theorem row_of_offset {c r : Nat} (hr : r < 4) : (4 * c + r) % 4 = r := by omega

/-! Substitution (R101, R102). -/

theorem byteAt_subBytes (s : Block) {j : Nat} (hj : j < 16) : byteAt (subBytes s) j = sbox (byteAt s j) := by
  rw [subBytes, byteAt_ofFn _ hj, byteAt_eq hj]; rfl

theorem byteAt_invSubBytes (s : Block) {j : Nat} (hj : j < 16) : byteAt (invSubBytes s) j = invSbox (byteAt s j) := by
  rw [invSubBytes, byteAt_ofFn _ hj, byteAt_eq hj]; rfl

/-- Settles O13. -/
theorem substitutionMicroOps : Obligations.SubstitutionMicroOps :=
  ⟨rfl, rfl, fun s =>
    ⟨⟨onState subBytes s, rfl, rfl, fun _ => byteAt_subBytes s.st⟩,
     ⟨onState invSubBytes s, rfl, rfl, fun _ => byteAt_invSubBytes s.st⟩⟩⟩

/-- The two tables are each other's inverse; checked on every byte (R84). -/
theorem invSbox_sbox : ∀ b : Byte, invSbox (sbox b) = b := by decide +kernel

theorem sbox_invSbox : ∀ b : Byte, sbox (invSbox b) = b := by decide +kernel

theorem invSubBytes_subBytes (s : Block) : invSubBytes (subBytes s) = s :=
  block_ext fun j hj => by rw [byteAt_invSubBytes _ hj, byteAt_subBytes _ hj, invSbox_sbox]

theorem subBytes_invSubBytes (s : Block) : subBytes (invSubBytes s) = s :=
  block_ext fun j hj => by rw [byteAt_subBytes _ hj, byteAt_invSubBytes _ hj, sbox_invSbox]

/-! Row rotation (R103, R104): the column a byte comes from. -/

theorem byteAt_shiftRows (s : Block) {c r : Nat} (hc : c < 4) (hr : r < 4) :
    byteAt (shiftRows s) (4 * c + r) = byteAt s (4 * ((c + r) % 4) + r) := by
  rw [shiftRows, byteAt_ofFn _ (by omega), byteAt_eq (by omega)]
  simp only [shiftSource, Fin.getElem_fin, column_of_offset hr, row_of_offset hr]

theorem byteAt_invShiftRows (s : Block) {c r : Nat} (hc : c < 4) (hr : r < 4) :
    byteAt (invShiftRows s) (4 * c + r) = byteAt s (4 * ((c + 4 - r) % 4) + r) := by
  rw [invShiftRows, byteAt_ofFn _ (by omega), byteAt_eq (by omega)]
  simp only [invShiftSource, Fin.getElem_fin, column_of_offset hr, row_of_offset hr]

/-- Going `r` columns on and then `r` back, modulo 4, is going nowhere. -/
theorem column_add_sub {c r : Nat} (hc : c < 4) (hr : r < 4) : ((c + r) % 4 + 4 - r) % 4 = c := by omega

theorem column_sub_add {c r : Nat} (hc : c < 4) (hr : r < 4) : ((c + 4 - r) % 4 + r) % 4 = c := by omega

/-- Settles O14: INVSHIFTROWS moves the byte of column `c` to column `c + r`. -/
theorem rowRotationMicroOps : Obligations.RowRotationMicroOps :=
  ⟨rfl, rfl, fun s =>
    ⟨⟨onState shiftRows s, rfl, rfl, fun _ _ => byteAt_shiftRows s.st⟩,
     ⟨onState invShiftRows s, rfl, rfl, fun c r hc hr => by
        rw [onState_st, byteAt_invShiftRows s.st (Nat.mod_lt _ (by decide)) hr, column_add_sub hc hr]⟩⟩⟩

theorem invShiftRows_shiftRows (s : Block) : invShiftRows (shiftRows s) = s :=
  block_ext_columns fun c r hc hr => by
    rw [byteAt_invShiftRows _ hc hr, byteAt_shiftRows _ (Nat.mod_lt _ (by decide)) hr, column_sub_add hc hr]

theorem shiftRows_invShiftRows (s : Block) : shiftRows (invShiftRows s) = s :=
  block_ext_columns fun c r hc hr => by
    rw [byteAt_shiftRows _ hc hr, byteAt_invShiftRows _ (Nat.mod_lt _ (by decide)) hr, column_add_sub hc hr]

/-! Column mixing (R105, R106). -/

theorem byteAt_mixWith (k0 k1 k2 k3 : Byte) (s : Block) {c r : Nat} (hc : c < 4) (hr : r < 4) :
    byteAt (mixWith k0 k1 k2 k3 s) (4 * c + r) = mixColumnByte k0 k1 k2 k3 (byteAt s (4 * c)) (byteAt s (4 * c + 1))
      (byteAt s (4 * c + 2)) (byteAt s (4 * c + 3)) r := by
  rw [mixWith, byteAt_ofFn _ (by omega), byteAt_eq (by omega), byteAt_eq (by omega), byteAt_eq (by omega),
    byteAt_eq (by omega)]
  simp only [column_of_offset hr, row_of_offset hr]

/-- The four bytes of a column of the product with a circulant matrix, row by row. -/
theorem column_mixWith (k0 k1 k2 k3 : Byte) (s : Block) {c : Nat} (hc : c < 4) :
    let m := mixWith k0 k1 k2 k3 s
    let a0 := byteAt s (4 * c)
    let a1 := byteAt s (4 * c + 1)
    let a2 := byteAt s (4 * c + 2)
    let a3 := byteAt s (4 * c + 3)
    byteAt m (4 * c) = gmul a0 k0 ^^^ gmul a1 k1 ^^^ gmul a2 k2 ^^^ gmul a3 k3 ∧
    byteAt m (4 * c + 1) = gmul a0 k3 ^^^ gmul a1 k0 ^^^ gmul a2 k1 ^^^ gmul a3 k2 ∧
    byteAt m (4 * c + 2) = gmul a0 k2 ^^^ gmul a1 k3 ^^^ gmul a2 k0 ^^^ gmul a3 k1 ∧
    byteAt m (4 * c + 3) = gmul a0 k1 ^^^ gmul a1 k2 ^^^ gmul a2 k3 ^^^ gmul a3 k0 :=
  ⟨byteAt_mixWith k0 k1 k2 k3 s hc (r := 0) (by decide), byteAt_mixWith k0 k1 k2 k3 s hc (by decide),
    byteAt_mixWith k0 k1 k2 k3 s hc (by decide), byteAt_mixWith k0 k1 k2 k3 s hc (by decide)⟩

/-- Settles O15: the entries 1 of the matrix leave a byte as it is. -/
theorem mixColumnsMicroOp : Obligations.MixColumnsMicroOp := by
  refine ⟨rfl, fun s => ⟨onState mixColumns s, rfl, rfl, fun c hc => ?_⟩⟩
  simpa only [mixColumns, gmul_one, onState_st] using column_mixWith 2 3 1 1 s.st hc

/-- Settles O16. -/
theorem invMixColumnsMicroOp : Obligations.InvMixColumnsMicroOp :=
  ⟨rfl, fun s => ⟨onState invMixColumns s, rfl, rfl, fun _ => column_mixWith 14 11 13 9 s.st⟩⟩

theorem fieldElem_mixByte (k0 k1 k2 k3 a0 a1 a2 a3 : Byte) :
    fieldElem (mixByte k0 k1 k2 k3 a0 a1 a2 a3) = fieldElem a0 * fieldElem k0 + fieldElem a1 * fieldElem k1 +
      fieldElem a2 * fieldElem k2 + fieldElem a3 * fieldElem k3 := by
  simp only [mixByte, fieldElem_xor, fieldElem_gmul]

/-- The product of two circulant matrices is circulant; the `l` times the columns of the `k` are its first row. -/
theorem mixWith_mixWith (l0 l1 l2 l3 k0 k1 k2 k3 : Byte) (s : Block) :
    mixWith l0 l1 l2 l3 (mixWith k0 k1 k2 k3 s) =
      mixWith (mixByte l0 l1 l2 l3 k0 k3 k2 k1) (mixByte l0 l1 l2 l3 k1 k0 k3 k2)
        (mixByte l0 l1 l2 l3 k2 k1 k0 k3) (mixByte l0 l1 l2 l3 k3 k2 k1 k0) s := by
  refine block_ext_columns fun c r hc hr => fieldElem_injective ?_
  obtain ⟨h0, h1, h2, h3⟩ := column_mixWith k0 k1 k2 k3 s hc
  rw [byteAt_mixWith _ _ _ _ _ hc hr, byteAt_mixWith _ _ _ _ _ hc hr, h0, h1, h2, h3]
  interval_cases r <;> simp only [mixColumnByte, fieldElem_mixByte, fieldElem_xor, fieldElem_gmul] <;> ring

theorem mixWith_identity (s : Block) : mixWith 1 0 0 0 s = s := by
  refine block_ext_columns fun c r hc hr => fieldElem_injective ?_
  rw [byteAt_mixWith _ _ _ _ _ hc hr]
  interval_cases r <;> simp only [mixColumnByte, fieldElem_mixByte, fieldElem_zero, fieldElem_one, mul_zero, mul_one,
    add_zero, zero_add]

/-- Multiplying by the two matrices in turn does nothing if the first row of their product is `(1, 0, 0, 0)`. -/
theorem mixWith_mixWith_eq_self {l0 l1 l2 l3 k0 k1 k2 k3 : Byte} (h0 : mixByte l0 l1 l2 l3 k0 k3 k2 k1 = 1)
    (h1 : mixByte l0 l1 l2 l3 k1 k0 k3 k2 = 0) (h2 : mixByte l0 l1 l2 l3 k2 k1 k0 k3 = 0)
    (h3 : mixByte l0 l1 l2 l3 k3 k2 k1 k0 = 0) (s : Block) :
    mixWith l0 l1 l2 l3 (mixWith k0 k1 k2 k3 s) = s := by
  rw [mixWith_mixWith, h0, h1, h2, h3, mixWith_identity]

theorem invMixColumns_mixColumns (s : Block) : invMixColumns (mixColumns s) = s :=
  mixWith_mixWith_eq_self (by decide) (by decide) (by decide) (by decide) s

theorem mixColumns_invMixColumns (s : Block) : mixColumns (invMixColumns s) = s :=
  mixWith_mixWith_eq_self (by decide) (by decide) (by decide) (by decide) s

/-! The round key (R107). -/

theorem byteAt_xorBlock (a b : Block) {j : Nat} (hj : j < 16) :
    byteAt (xorBlock a b) j = byteAt a j ^^^ byteAt b j := by
  rw [xorBlock, byteAt_ofFn _ hj, byteAt_eq hj, byteAt_eq hj]; rfl

theorem byteAt_addRoundKey (rks : Vector Byte 240) (round : Nat) (s : Block) {j : Nat} (hj : j < 16) :
    byteAt (addRoundKey rks round s) j = byteAt s j ^^^ (rks[16 * round + j]?).getD 0 := by
  rw [addRoundKey, byteAt_xorBlock _ _ hj, roundKey, byteAt_ofFn _ hj]

/-- Settles O17: the round key is in the schedule, or it is a free value. -/
theorem addRoundKeyMicroOp : Obligations.AddRoundKeyMicroOp := by
  intro s
  rcases execAddRoundKey_cases s with ⟨hle, h⟩ | ⟨hlt, h⟩
  · exact ⟨fun _ => ⟨_, h, rfl, fun _ => byteAt_addRoundKey s.rks s.rnd s.st⟩,
      fun hlt => absurd hlt (Nat.not_lt.2 hle)⟩
  · exact ⟨fun hle => absurd hlt (Nat.not_lt.2 hle), fun _ => ⟨_, h, rfl⟩⟩

theorem addRoundKey_addRoundKey (rks : Vector Byte 240) (round : Nat) (s : Block) :
    addRoundKey rks round (addRoundKey rks round s) = s :=
  block_ext fun j hj => by
    rw [byteAt_addRoundKey _ _ _ hj, byteAt_addRoundKey _ _ _ hj, BitVec.xor_assoc, BitVec.xor_self, BitVec.xor_zero]

/-- Settles O18: the tables are inverse, the rotations cancel, the matrices multiply to the identity in the field, and a
byte XORed twice comes back. -/
theorem microOpsUndoEachOther : Obligations.MicroOpsUndoEachOther := fun b rks round =>
  ⟨invSubBytes_subBytes b, subBytes_invSubBytes b, invShiftRows_shiftRows b, shiftRows_invShiftRows b,
    invMixColumns_mixColumns b, mixColumns_invMixColumns b, addRoundKey_addRoundKey rks round b⟩

end Sys2Proof.Proofs
end

section
/-! The block cipher (`43_block_cipher.md` R110 to R113): the round sequencer's programs run micro-operation by
micro-operation, and the two block procedures that undo each other. -/

namespace Sys2Proof.Proofs
open Sys2Proof Sys2Proof.Machine

/-! The sequencer (R110, R111): only `RND` and `STATE` change while a program is issued. -/

/-- The state `s` with round number `round` in `RND` and block `b` in `STATE`: what the sequencer has made of `s`. -/
def atRound (s : State) (round : Nat) (b : Block) : State := { s with rnd := round, st := b }

theorem encryptState_eq_atRound (s : State) :
    encryptState s = atRound s (nrOf s.variant) (encryptBlock s.rks (nrOf s.variant) s.st) := rfl

theorem decryptState_eq_atRound (s : State) :
    decryptState s = atRound s 0 (decryptBlock s.rks (nrOf s.variant) s.st) := rfl

theorem issue_cons {i : Instr} {s t : State} {round : Nat} (h : exec i { s with rnd := round } = .next t)
    (rest : List (Nat × Instr)) : issue ((round, i) :: rest) s = issue rest t := by
  rw [issue, h]

theorem issue_onState {i : Instr} {f : Block → Block} (h : ∀ s, exec i s = .next (onState f s)) (s : State)
    (round k : Nat) (b : Block) (rest : List (Nat × Instr)) :
    issue ((round, i) :: rest) (atRound s k b) = issue rest (atRound s round (f b)) :=
  issue_cons (h _) rest

/-! Six of the micro-operations complete in every state (R101 to R106); ADDROUNDKEY does within the schedule. -/

theorem exec_subBytes (s : State) : exec .subBytes s = .next (onState subBytes s) := rfl
theorem exec_shiftRows (s : State) : exec .shiftRows s = .next (onState shiftRows s) := rfl
theorem exec_mixColumns (s : State) : exec .mixColumns s = .next (onState mixColumns s) := rfl
theorem exec_invSubBytes (s : State) : exec .invSubBytes s = .next (onState invSubBytes s) := rfl
theorem exec_invShiftRows (s : State) : exec .invShiftRows s = .next (onState invShiftRows s) := rfl
theorem exec_invMixColumns (s : State) : exec .invMixColumns s = .next (onState invMixColumns s) := rfl

/-- ADDROUNDKEY under a round number of the schedule (R107). -/
theorem issue_addRoundKey {s : State} {round : Nat} (hround : round ≤ nrOf s.variant) (k : Nat) (b : Block)
    (rest : List (Nat × Instr)) :
    issue ((round, .addRoundKey) :: rest) (atRound s k b) =
      issue rest (atRound s round (addRoundKey s.rks round b)) :=
  have hexec : exec .addRoundKey (atRound s round b) = .next (atRound s round (addRoundKey s.rks round b)) :=
    if_pos hround
  issue_cons hexec rest

/-- A full round of EncryptBlock (R110). -/
theorem issue_encryptRoundProgram {s : State} {round : Nat} (hround : round ≤ nrOf s.variant) (k : Nat) (b : Block)
    (rest : List (Nat × Instr)) :
    issue (encryptRoundProgram round ++ rest) (atRound s k b) =
      issue rest (atRound s round (addRoundKey s.rks round (mixColumns (shiftRows (subBytes b))))) := by
  simp only [encryptRoundProgram, List.cons_append, List.nil_append]
  rw [issue_onState exec_subBytes, issue_onState exec_shiftRows, issue_onState exec_mixColumns,
    issue_addRoundKey hround]

/-- A full round of DecryptBlock (R111). -/
theorem issue_decryptRoundProgram {s : State} {round : Nat} (hround : round ≤ nrOf s.variant) (k : Nat) (b : Block)
    (rest : List (Nat × Instr)) :
    issue (decryptRoundProgram round ++ rest) (atRound s k b) =
      issue rest (atRound s round (invMixColumns (addRoundKey s.rks round (invSubBytes (invShiftRows b))))) := by
  simp only [decryptRoundProgram, List.cons_append, List.nil_append]
  rw [issue_onState exec_invShiftRows, issue_onState exec_invSubBytes, issue_addRoundKey hround,
    issue_onState exec_invMixColumns]

/-- The encryption loop: `n` rounds after round `r` end with round `r + n` in `RND`. -/
theorem issue_encryptRounds {s : State} (rest : List (Nat × Instr)) {n r : Nat} (b : Block)
    (hn : r + n ≤ nrOf s.variant) :
    issue ((List.range' (r + 1) n).flatMap encryptRoundProgram ++ rest) (atRound s r b) =
      issue rest (atRound s (r + n) (encryptRounds s.rks n (r + 1) b)) := by
  induction n generalizing r b with
  | zero => rfl
  | succ n ih =>
    rw [List.range'_succ, List.flatMap_cons, List.append_assoc, issue_encryptRoundProgram (by omega), ih _ (by omega),
      encryptRounds, Nat.add_right_comm r 1 n, Nat.add_assoc r n 1]

/-- The decryption loop: rounds `n` down to 1, after round `n + 1`, end with 1 in `RND`. -/
theorem issue_decryptRounds {s : State} (rest : List (Nat × Instr)) {n : Nat} (b : Block)
    (hn : n ≤ nrOf s.variant) :
    issue ((List.range' 1 n).reverse.flatMap decryptRoundProgram ++ rest) (atRound s (n + 1) b) =
      issue rest (atRound s 1 (decryptRounds s.rks n b)) := by
  induction n generalizing b with
  | zero => rfl
  | succ n ih =>
    rw [List.range'_1_concat, List.reverse_concat, List.flatMap_cons, List.append_assoc, Nat.add_comm 1 n,
      issue_decryptRoundProgram hn, ih _ (by omega), decryptRounds]

theorem nrOf_pos (v : Variant) : 0 < nrOf v := by cases v <;> decide

/-- The encryption program leaves what `encryptBlock` leaves: round key 0, the loop, the final round (R110). -/
theorem issue_encryptProgram (s : State) : issue (encryptProgram (nrOf s.variant)) s = .next (encryptState s) := by
  have hloop : 0 + (nrOf s.variant - 1) ≤ nrOf s.variant := by omega
  rw [encryptState_eq_atRound, encryptBlock, encryptProgram, List.append_assoc, List.singleton_append]
  change issue _ (atRound s s.rnd s.st) = _
  rw [issue_addRoundKey (Nat.zero_le _), issue_encryptRounds _ _ hloop, issue_onState exec_subBytes,
    issue_onState exec_shiftRows, issue_addRoundKey le_rfl, issue]

/-- The decryption program leaves what `decryptBlock` leaves: round key Nr, the loop, the final step (R111). -/
theorem issue_decryptProgram (s : State) : issue (decryptProgram (nrOf s.variant)) s = .next (decryptState s) := by
  have hloop (b : Block) (rest : List (Nat × Instr)) :=
    issue_decryptRounds rest b (Nat.sub_le (nrOf s.variant) 1)
  rw [Nat.sub_add_cancel (nrOf_pos s.variant)] at hloop
  rw [decryptState_eq_atRound, decryptBlock, decryptProgram, List.append_assoc, List.singleton_append]
  change issue _ (atRound s s.rnd s.st) = _
  rw [issue_addRoundKey le_rfl, hloop, issue_onState exec_invShiftRows, issue_onState exec_invSubBytes,
    issue_addRoundKey (Nat.zero_le _), issue]

/-! The number of micro-operations: four to a round; the first round key and the final round are four together. -/

theorem length_flatMap_rounds {program : Nat → List (Nat × Instr)} (h : ∀ r, (program r).length = 4)
    (rounds : List Nat) : (rounds.flatMap program).length = 4 * rounds.length := by
  simp only [List.length_flatMap, h, List.map_const', List.sum_replicate, smul_eq_mul, mul_comm]

theorem length_encryptProgram {nr : Nat} (hnr : 0 < nr) : (encryptProgram nr).length = 4 * nr := by
  rw [encryptProgram, List.length_append, List.length_append, length_flatMap_rounds fun _ => rfl, List.length_range']
  simp only [List.length_cons, List.length_nil]
  omega

theorem length_decryptProgram {nr : Nat} (hnr : 0 < nr) : (decryptProgram nr).length = 4 * nr := by
  rw [decryptProgram, List.length_append, List.length_append, length_flatMap_rounds fun _ => rfl, List.length_reverse,
    List.length_range']
  simp only [List.length_cons, List.length_nil]
  omega

/-- Settles O19. -/
theorem sequencerIssuesTheBlockPrograms : Obligations.SequencerIssuesTheBlockPrograms := fun s =>
  ⟨issue_encryptProgram s, issue_decryptProgram s, length_encryptProgram (nrOf_pos s.variant),
    length_decryptProgram (nrOf_pos s.variant)⟩

/-! The block procedures undo each other (R113): round `n` of one loop meets round `n` of the other. -/

/-- The encryption loop, by its last round. -/
theorem encryptRounds_succ_last (rks : Vector Byte 240) (n r : Nat) (b : Block) :
    encryptRounds rks (n + 1) r b =
      addRoundKey rks (r + n) (mixColumns (shiftRows (subBytes (encryptRounds rks n r b)))) := by
  induction n generalizing r b with
  | zero => rfl
  | succ n ih => rw [encryptRounds, ih, encryptRounds, Nat.add_assoc, Nat.add_comm 1 n]

/-- Decryption peels the encryption loop off from its last round, up to the substitution and rotation between. -/
theorem decryptRounds_encryptRounds (rks : Vector Byte 240) (n : Nat) (b : Block) :
    decryptRounds rks n (shiftRows (subBytes (encryptRounds rks n 1 b))) = shiftRows (subBytes b) := by
  induction n with
  | zero => rfl
  | succ n ih =>
    rw [encryptRounds_succ_last, Nat.add_comm 1 n, decryptRounds, invShiftRows_shiftRows, invSubBytes_subBytes,
      addRoundKey_addRoundKey, invMixColumns_mixColumns, ih]

theorem encryptRounds_decryptRounds (rks : Vector Byte 240) (n : Nat) (b : Block) :
    encryptRounds rks n 1 (invSubBytes (invShiftRows (decryptRounds rks n b))) = invSubBytes (invShiftRows b) := by
  induction n generalizing b with
  | zero => rfl
  | succ n ih =>
    rw [encryptRounds_succ_last, Nat.add_comm 1 n, decryptRounds, ih, subBytes_invSubBytes, shiftRows_invShiftRows,
      mixColumns_invMixColumns, addRoundKey_addRoundKey]

theorem decryptBlock_encryptBlock (rks : Vector Byte 240) (nr : Nat) (b : Block) :
    decryptBlock rks nr (encryptBlock rks nr b) = b := by
  rw [decryptBlock, encryptBlock, addRoundKey_addRoundKey, decryptRounds_encryptRounds, invShiftRows_shiftRows,
    invSubBytes_subBytes, addRoundKey_addRoundKey]

theorem encryptBlock_decryptBlock (rks : Vector Byte 240) (nr : Nat) (b : Block) :
    encryptBlock rks nr (decryptBlock rks nr b) = b := by
  rw [encryptBlock, decryptBlock, addRoundKey_addRoundKey, encryptRounds_decryptRounds, subBytes_invSubBytes,
    shiftRows_invShiftRows, addRoundKey_addRoundKey]

/-- Settles O20. -/
theorem blockCipherInverseLaw : Obligations.BlockCipherInverseLaw := fun v rks b =>
  ⟨decryptBlock_encryptBlock rks (nrOf v) b, encryptBlock_decryptBlock rks (nrOf v) b⟩

end Sys2Proof.Proofs
end

section
/-! The counter (`44_mode_driver.md` R126): the carry, read on the number the first bytes of a block make up. -/

namespace Sys2Proof.Proofs
open Sys2Proof Sys2Proof.Machine

/-- The big-endian number of the first `n` bytes of a block. -/
def leadingVal (c : Block) : (n : Nat) → Nat
  | 0 => 0
  | n + 1 => leadingVal c n * 256 + (byteAt c n).toNat

theorem leadingVal_succ (c : Block) (n : Nat) : leadingVal c (n + 1) = leadingVal c n * 256 + (byteAt c n).toNat := rfl

theorem leadingVal_congr {a b : Block} {n : Nat} (h : ∀ j, j < n → byteAt a j = byteAt b j) :
    leadingVal a n = leadingVal b n := by
  induction n with
  | zero => rfl
  | succ n ih => rw [leadingVal_succ, leadingVal_succ, h n n.lt_succ_self, ih fun j hj => h j (hj.trans n.lt_succ_self)]

theorem leadingVal_lt (c : Block) (n : Nat) : leadingVal c n < 256 ^ n := by
  induction n with
  | zero => exact Nat.one_pos
  | succ n ih =>
    have hbyte := (byteAt c n).isLt
    rw [leadingVal_succ, pow_succ]
    omega

/-- The number a block stands for is that of all its bytes. -/
theorem blockVal_eq_leadingVal (c : Block) : blockVal c = leadingVal c 16 := by
  have htake : ∀ n, n ≤ 16 →
      (c.toList.take n).foldl (fun acc x => acc * 256 + x.toNat) 0 = leadingVal c n := fun n hn => by
    induction n with
    | zero => rfl
    | succ n ih =>
      have hbyte : c.toList[n]? = some (byteAt c n) := by simp [byteAt, Nat.lt_of_succ_le hn]
      rw [List.take_add_one, hbyte, List.foldl_append, ih (Nat.le_of_succ_le hn)]
      rfl
  rw [← htake 16 le_rfl, List.take_of_length_le (by simp), blockVal]

theorem byteAt_setIfInBounds (c : Block) {n j : Nat} (b : Byte) (hn : n < 16) :
    byteAt (c.setIfInBounds n b) j = if j = n then b else byteAt c j := by
  rw [byteAt, Vector.getElem?_setIfInBounds]
  by_cases hj : n = j
  · rw [if_pos hj, if_pos (hj ▸ hn), if_pos hj.symm, Option.getD_some]
  · rw [if_neg hj, if_neg (Ne.symm hj), byteAt]

/-- One byte of the carry: it takes one more, and where it wraps the carry goes on to the bytes before it. -/
theorem incFrom_succ (n : Nat) (c : Block) : incFrom (n + 1) c =
    if byteAt c n + 1 = 0 then incFrom n (c.setIfInBounds n 0) else c.setIfInBounds n (byteAt c n + 1) := by
  by_cases h : byteAt c n + 1 = 0
  · rw [if_pos h, ← h, incFrom]; exact if_neg (not_not.2 h)
  · rw [if_neg h, incFrom]; exact if_pos h

/-- The carry leaves the bytes behind it alone. -/
theorem byteAt_incFrom_of_le {n j : Nat} (c : Block) (hn : n ≤ 16) (hj : n ≤ j) :
    byteAt (incFrom n c) j = byteAt c j := by
  induction n generalizing c with
  | zero => rfl
  | succ n ih =>
    have hset (b : Byte) : byteAt (c.setIfInBounds n b) j = byteAt c j := by
      rw [byteAt_setIfInBounds c b hn, if_neg (Nat.ne_of_gt hj)]
    rw [incFrom_succ]
    split_ifs
    · rw [ih _ (Nat.le_of_succ_le hn) (Nat.le_of_succ_le hj), hset]
    · exact hset _

/-- The carry adds one to the number of the bytes it runs over, modulo their range. -/
theorem leadingVal_incFrom {n : Nat} (c : Block) (hn : n ≤ 16) :
    leadingVal (incFrom n c) n = (leadingVal c n + 1) % 256 ^ n := by
  induction n generalizing c with
  | zero => exact (Nat.mod_one _).symm
  | succ n ih =>
    have hbefore (b : Byte) : leadingVal (c.setIfInBounds n b) n = leadingVal c n :=
      leadingVal_congr fun j hj => by rw [byteAt_setIfInBounds c b hn, if_neg (Nat.ne_of_lt hj)]
    have hat (b : Byte) : byteAt (c.setIfInBounds n b) n = b := by rw [byteAt_setIfInBounds c b hn, if_pos rfl]
    rw [incFrom_succ, leadingVal_succ c]
    split_ifs with hwrap
    · have hbyte : (byteAt c n).toNat = 255 := by bv_omega
      have hcarry : leadingVal c n * 256 + 255 + 1 = (leadingVal c n + 1) * 256 := by omega
      rw [leadingVal_succ, ih _ (Nat.le_of_succ_le hn), byteAt_incFrom_of_le _ (Nat.le_of_succ_le hn) le_rfl, hbefore,
        hat, hbyte, hcarry, pow_succ, Nat.mul_mod_mul_right]
      exact Nat.add_zero _
    · have hbyte : (byteAt c n + 1).toNat = (byteAt c n).toNat + 1 := by bv_omega
      have hsum : leadingVal (c.setIfInBounds n (byteAt c n + 1)) (n + 1) =
          leadingVal c n * 256 + (byteAt c n).toNat + 1 := by
        rw [leadingVal_succ, hbefore, hat, hbyte, Nat.add_assoc]
      rw [← hsum, Nat.mod_eq_of_lt (leadingVal_lt _ _)]

/-- Settles O21: CtrInc is the carry over all 16 bytes. -/
theorem ctrIncAddsOneModulo : Obligations.CtrIncAddsOneModulo := by
  intro c
  rw [blockVal_eq_leadingVal, blockVal_eq_leadingVal, ctrInc, leadingVal_incFrom c le_rfl]
  norm_num

end Sys2Proof.Proofs
end

section
/-! The data commands block by block (`44_mode_driver.md` R122 to R127): what each stores for a block and hands on to
the next one, and that its loop leaves this in memory and in `CHAIN`. -/

namespace Sys2Proof.Proofs
open Sys2Proof Sys2Proof.Machine

/-! What the rules say of one block: `s` supplies the schedule, `c` is the chain block that reaches the block, `d` the
16 bytes memory holds there. -/

/-- The block a data command stores. -/
def storedBlock (i : Instr) (s : State) (c d : Block) : Block :=
  match i with
  | .ecbEncrypt => encryptBlock s.rks (nrOf s.variant) d
  | .ecbDecrypt => decryptBlock s.rks (nrOf s.variant) d
  | .cbcEncrypt => encryptBlock s.rks (nrOf s.variant) (xorBlock d c)
  | .cbcDecrypt => xorBlock (decryptBlock s.rks (nrOf s.variant) d) c
  | .ctrXcrypt => xorBlock d (encryptBlock s.rks (nrOf s.variant) c)
  | _ => d

/-- The chain block it hands on: the ciphertext block for CBC, the next counter for CTR. -/
def nextChain (i : Instr) (s : State) (c d : Block) : Block :=
  match i with
  | .cbcEncrypt => encryptBlock s.rks (nrOf s.variant) (xorBlock d c)
  | .cbcDecrypt => d
  | .ctrXcrypt => ctrInc c
  | _ => c

/-- The chain block that reaches block `k` of the buffer of `s`. -/
def chainBefore (i : Instr) (s : State) : (k : Nat) → Block
  | 0 => s.chain
  | k + 1 => nextChain i s (chainBefore i s k) (readBlock s.mem (s.bufAddr + 16 * k))

/-- Block `k` of the result. -/
def outBlock (i : Instr) (s : State) (k : Nat) : Block :=
  storedBlock i s (chainBefore i s k) (readBlock s.mem (s.bufAddr + 16 * k))

/-- Byte `x` of the result. -/
def outByte (i : Instr) (s : State) (x : Nat) : Byte := byteAt (outBlock i s (x / 16)) (x % 16)

theorem outByte_of_block (i : Instr) (s : State) (k : Nat) {j : Nat} (hj : j < 16) :
    outByte i s (16 * k + j) = byteAt (outBlock i s k) j := by
  rw [outByte, show (16 * k + j) / 16 = k by omega, show (16 * k + j) % 16 = j by omega]

section
variable {i : Instr} {s t : State} (h : DataFrame s t)
include h

theorem storedBlock_of_frame (c d : Block) : storedBlock i t c d = storedBlock i s c d := by
  simp only [storedBlock, h.rks, h.variant]

theorem nextChain_of_frame (c d : Block) : nextChain i t c d = nextChain i s c d := by
  simp only [nextChain, h.rks, h.variant]

end

/-! One turn of the loop. -/

/-- The register that holds the chain block while the loop runs. -/
def runningChain (i : Instr) (t : State) : Block :=
  match i with
  | .cbcEncrypt => t.ch
  | _ => t.chain

theorem runningChain_off (i : Instr) (t : State) (n : Nat) :
    runningChain i { t with off := n } = runningChain i t := by cases i <;> rfl

/-- The scratch blocks a data command does not use are left alone (`10_state.md` R17, log 8). -/
structure ScratchKept (i : Instr) (s t : State) : Prop where
  ks : i ≠ .ctrXcrypt → t.ks = s.ks
  nextIv : i ≠ .cbcDecrypt → t.nextIv = s.nextIv
  ch : i ≠ .cbcEncrypt → t.ch = s.ch

theorem ScratchKept.trans {i : Instr} {s t u : State} (h : ScratchKept i s t) (k : ScratchKept i t u) :
    ScratchKept i s u :=
  ⟨fun hi => (k.ks hi).trans (h.ks hi), fun hi => (k.nextIv hi).trans (h.nextIv hi),
    fun hi => (k.ch hi).trans (h.ch hi)⟩

/-- One turn of the loop of `i` does to its chunk what the rules say of a block. -/
structure BlockTurn (i : Instr) (t u : State) : Prop extends ChunkTurn t u where
  stored : ∀ j, j < ctrChunkLen t → readByte u.mem (t.bufAddr + t.off + j) =
    byteAt (storedBlock i t (runningChain i t) (readBlock t.mem (t.bufAddr + t.off))) j
  chained : runningChain i u = nextChain i t (runningChain i t) (readBlock t.mem (t.bufAddr + t.off))
  scratch : ScratchKept i t u

theorem ctrChunkLen_le (t : State) : ctrChunkLen t ≤ 16 := Nat.min_le_left ..

/-- A byte of a block stored. -/
theorem readByte_writeBlock_add (m : List Host.Cell) (a : Nat) (b : Block) {j : Nat} (hj : j < 16) :
    readByte (writeBlock m a b) (a + j) = byteAt b j := by
  rw [readByte_writeBlock, if_pos (by omega), Nat.add_sub_cancel_left]

theorem byteAt_readBlock (m : List Host.Cell) (a : Nat) {j : Nat} (hj : j < 16) :
    byteAt (readBlock m a) j = readByte m (a + j) := by
  rw [byteAt_eq hj, getElem_readBlock m a j hj]

/-- A byte of a chunk XORed with the keystream and stored. -/
theorem readByte_xorChunk (m : List Host.Cell) (a : Nat) (ks : Block) {n j : Nat} (hj : j < n) (hn : n ≤ 16) :
    readByte (memWrite m a (xorChunk (memRead m a n) ks)) (a + j) = readByte m (a + j) ^^^ byteAt ks j := by
  have hlen : j < (memRead m a n).length := by rwa [length_memRead]
  have hbyte : (memRead m a n)[j] = readByte m (a + j) :=
    Option.some.inj ((List.getElem?_eq_getElem hlen).symm.trans (getElem?_memRead m a n j hj))
  rw [readByte_memWrite, if_pos (by rw [length_xorChunk, length_memRead]; omega), Nat.add_sub_cancel_left,
    List.getD_eq_getElem?_getD, getElem?_xorChunk _ _ _ hlen (by omega), hbyte, Option.getD_some]

/-- A turn that stores one whole block. -/
theorem BlockTurn.of_writeBlock {i : Instr} {t u : State} (hwhole : ctrChunkLen t = 16) (hturn : ChunkTurn t u)
    (hmem : u.mem = writeBlock t.mem (t.bufAddr + t.off)
      (storedBlock i t (runningChain i t) (readBlock t.mem (t.bufAddr + t.off))))
    (hchain : runningChain i u = nextChain i t (runningChain i t) (readBlock t.mem (t.bufAddr + t.off)))
    (hscratch : ScratchKept i t u) : BlockTurn i t u :=
  ⟨hturn, fun _ hj => by rw [hmem, readByte_writeBlock_add _ _ _ (hwhole ▸ hj)], hchain, hscratch⟩

theorem blockTurn_ecbEncrypt {t : State} (hwhole : ctrChunkLen t = 16) :
    BlockTurn .ecbEncrypt t (ecbEncryptBody t) := by
  refine .of_writeBlock hwhole (chunkTurn_ecbEncryptBody hwhole) ?_ ?_ ?_ <;> rw [ecbEncryptBody_eq]
  · rfl
  · rfl
  · exact ⟨fun _ => rfl, fun _ => rfl, fun _ => rfl⟩

theorem blockTurn_ecbDecrypt {t : State} (hwhole : ctrChunkLen t = 16) :
    BlockTurn .ecbDecrypt t (ecbDecryptBody t) := by
  refine .of_writeBlock hwhole (chunkTurn_ecbDecryptBody hwhole) ?_ ?_ ?_ <;> rw [ecbDecryptBody_eq]
  · rfl
  · rfl
  · exact ⟨fun _ => rfl, fun _ => rfl, fun _ => rfl⟩

theorem blockTurn_cbcEncrypt {t : State} (hwhole : ctrChunkLen t = 16) :
    BlockTurn .cbcEncrypt t (cbcEncryptBody t) := by
  refine .of_writeBlock hwhole (chunkTurn_cbcEncryptBody hwhole) ?_ ?_ ?_ <;> rw [cbcEncryptBody_eq]
  · rfl
  · rfl
  · exact ⟨fun _ => rfl, fun _ => rfl, fun hi => absurd rfl hi⟩

theorem blockTurn_cbcDecrypt {t : State} (hwhole : ctrChunkLen t = 16) :
    BlockTurn .cbcDecrypt t (cbcDecryptBody t) := by
  refine .of_writeBlock hwhole (chunkTurn_cbcDecryptBody hwhole) ?_ ?_ ?_ <;> rw [cbcDecryptBody_eq]
  · rfl
  · rfl
  · exact ⟨fun _ => rfl, fun hi => absurd rfl hi, fun _ => rfl⟩

theorem blockTurn_ctrXcrypt (t : State) : BlockTurn .ctrXcrypt t (ctrBody t) := by
  refine ⟨chunkTurn_ctrBody t, fun j hj => ?_, ?_, ?_⟩ <;> rw [ctrBody_eq]
  · have hj16 : j < 16 := hj.trans_le (ctrChunkLen_le t)
    dsimp only
    rw [readByte_xorChunk _ _ _ hj (ctrChunkLen_le t), storedBlock, byteAt_xorBlock _ _ hj16, byteAt_readBlock _ _ hj16]
    rfl
  · rfl
  · exact ⟨fun hi => absurd rfl hi, fun _ => rfl, fun _ => rfl⟩

/-! The loop. -/

/-- After `k` turns of the loop of `i` over the buffer of `s`: the bytes before `OFF` are the result's, memory from
there on is as it was, and the chain block of block `k` is at hand. -/
structure Chained (i : Instr) (s : State) (k : Nat) (t : State) : Prop extends InsideBuffer s k t where
  done : ∀ x, x < t.off → readByte t.mem (s.bufAddr + x) = outByte i s x
  ahead : ∀ x, t.off ≤ x → readByte t.mem (s.bufAddr + x) = readByte s.mem (s.bufAddr + x)
  chained : runningChain i t = chainBefore i s k
  scratch : ScratchKept i s t

section
variable {i : Instr} {s t u : State} {k : Nat} (ht : Chained i s k t)
include ht

/-- Before turn `k` memory at `OFF` still holds block `k` of the buffer. -/
theorem Chained.readBlock_eq (hk : k < chunkCount s.bufLen) :
    readBlock t.mem (t.bufAddr + t.off) = readBlock s.mem (s.bufAddr + 16 * k) := by
  have hoff := ht.off
  have hcount : k < (s.bufLen + 15) / 16 := hk
  refine block_ext fun j hj => ?_
  rw [byteAt_readBlock _ _ hj, byteAt_readBlock _ _ hj, ht.frame.bufAddr, Nat.add_assoc,
    ht.ahead _ (Nat.le_add_right ..), show t.off = 16 * k by omega, Nat.add_assoc]

theorem Chained.turn (hk : k < chunkCount s.bufLen) (hu : BlockTurn i t u) : Chained i s (k + 1) u := by
  have hblock : storedBlock i t (runningChain i t) (readBlock t.mem (t.bufAddr + t.off)) = outBlock i s k := by
    rw [storedBlock_of_frame ht.frame, ht.chained, ht.readBlock_eq hk, outBlock]
  have hoff := ht.off
  have hcount : k < (s.bufLen + 15) / 16 := hk
  have hstored := hu.stored
  have hkept := hu.kept
  rw [hblock, ht.frame.bufAddr] at hstored
  rw [ht.frame.bufAddr] at hkept
  refine ⟨ht.toInsideBuffer.turn hk hu.toChunkTurn, fun x hx => ?_, fun x hx => ?_, ?_, ht.scratch.trans hu.scratch⟩
  · rw [hu.off] at hx
    by_cases hbefore : x < t.off
    · rw [hkept _ (by omega), ht.done x hbefore]
    · obtain ⟨j, rfl⟩ : ∃ j, x = t.off + j := ⟨x - t.off, by omega⟩
      have hj : j < ctrChunkLen t := by omega
      rw [← Nat.add_assoc, hstored j hj, show t.off = 16 * k by omega,
        outByte_of_block i s k (hj.trans_le (ctrChunkLen_le t))]
  · rw [hu.off] at hx
    rw [hkept _ (by omega), ht.ahead x (by omega)]
  · rw [hu.chained, nextChain_of_frame ht.frame, ht.chained, ht.readBlock_eq hk, chainBefore]

end

/-- A loop that begins at a state with the memory of `s` and its `CHAIN` at hand, and whose turns do what the rules
say. -/
theorem chained_overBuffer {i : Instr} {body : State → State} {s u : State}
    (hbody : ∀ t, (needsBlocks i = true → ctrChunkLen t = 16) → BlockTurn i t (body t))
    (hlen : needsBlocks i = true → s.bufLen % 16 = 0) (hu : Chained i s 0 { u with off := 0 }) :
    Chained i s (chunkCount s.bufLen) (overBuffer body u) := by
  have hsize : u.bufLen = s.bufLen := hu.frame.bufLen
  have hloop := overBuffer_induction (P := Chained i s) u hu fun k t hk ht => by
    rw [hsize] at hk
    exact ht.turn hk (hbody t fun hi => ht.ctrChunkLen_eq hk (hlen hi))
  rwa [hsize] at hloop

/-- Before the first turn: nothing is stored yet, and the chain block is `CHAIN`. -/
theorem chained_start {i : Instr} {s u : State} (hframe : DataFrame s u) (hmem : u.mem = s.mem)
    (hchain : runningChain i u = s.chain) (hscratch : ScratchKept i s u) : Chained i s 0 { u with off := 0 } where
  frame := dataFrame_trans hframe (dataFrame_off u 0)
  off := by rw [Nat.mul_zero, Nat.zero_min]
  kept _ _ := by rw [hmem]
  done x hx := absurd hx (Nat.not_lt_zero x)
  ahead _ _ := by rw [hmem]
  chained := (runningChain_off i u 0).trans hchain
  scratch := hscratch.trans ⟨fun _ => rfl, fun _ => rfl, fun _ => rfl⟩

/-- The start of a command that keeps its chain block in `CHAIN`. -/
theorem chained_start_self {i : Instr} {s : State} (hchain : runningChain i s = s.chain) :
    Chained i s 0 { s with off := 0 } :=
  chained_start (dataFrame_refl s) rfl hchain ⟨fun _ => rfl, fun _ => rfl, fun _ => rfl⟩

/-- The pass of each data command is its loop, after which memory stays as it is, `CHAIN` takes the chain block at hand,
and only the command's own scratch is released. -/
theorem bufferPass_chained {i : Instr} (hi : isData i = true) {s : State}
    (hlen : needsBlocks i = true → s.bufLen % 16 = 0) :
    ∃ t, Chained i s (chunkCount s.bufLen) t ∧ (bufferPass i s).mem = t.mem ∧
      (bufferPass i s).chain = runningChain i t ∧ ScratchKept i t (bufferPass i s) := by
  cases i <;> simp only [isData, reduceCtorEq] at hi <;> rw [bufferPass]
  case ecbEncrypt =>
    refine ⟨_, chained_overBuffer (fun t h => blockTurn_ecbEncrypt (h rfl)) hlen (chained_start_self rfl),
      ?_, ?_, ?_, ?_, ?_⟩ <;>
      simp [ecbEncryptBuffer, runningChain]
  case ecbDecrypt =>
    refine ⟨_, chained_overBuffer (fun t h => blockTurn_ecbDecrypt (h rfl)) hlen (chained_start_self rfl),
      ?_, ?_, ?_, ?_, ?_⟩ <;>
      simp [ecbDecryptBuffer, runningChain]
  case cbcEncrypt =>
    refine ⟨cbcEncryptLoop s, chained_overBuffer (fun t h => blockTurn_cbcEncrypt (h rfl)) hlen
      (chained_start (dataFrame_ch s s.chain) rfl rfl ⟨fun _ => rfl, fun _ => rfl, fun hi => absurd rfl hi⟩),
      ?_, ?_, ?_, ?_, ?_⟩ <;>
      simp [cbcEncryptBuffer, runningChain]
  case cbcDecrypt =>
    refine ⟨_, chained_overBuffer (fun t h => blockTurn_cbcDecrypt (h rfl)) hlen (chained_start_self rfl),
      ?_, ?_, ?_, ?_, ?_⟩ <;>
      simp [cbcDecryptBuffer, runningChain]
  case ctrXcrypt =>
    refine ⟨_, chained_overBuffer (fun t _ => blockTurn_ctrXcrypt t) hlen (chained_start_self rfl),
      ?_, ?_, ?_, ?_, ?_⟩ <;>
      simp [ctrBuffer, runningChain]

/-! The result of a data command that runs. -/

/-- A data command may run its body: a context, whole blocks where it needs them, a legal buffer (R120). -/
structure Ready (i : Instr) (s : State) : Prop where
  valid : s.valid = true
  whole : needsBlocks i = true → s.bufLen % 16 = 0
  buffer : bufferOk s = true

theorem ready_of_blocksReady (i : Instr) {s : State} (h : BlocksReady s) : Ready i s :=
  let ⟨hvalid, hlen, hbuf⟩ := h
  ⟨hvalid, fun _ => hlen, hbuf⟩

theorem ready_of_chunksReady {s : State} (h : ChunksReady s) : Ready .ctrXcrypt s :=
  let ⟨hvalid, hbuf⟩ := h
  ⟨hvalid, nofun, hbuf⟩

/-- What a data command that ran has done. -/
structure Completed (i : Instr) (s t : State) : Prop where
  inside : ∀ x, x < s.bufLen → readByte t.mem (s.bufAddr + x) = outByte i s x
  outside : MemoryOutsideBufferKept s t
  memory : MemoryInv s → MemoryInv t
  chain : t.chain = chainBefore i s (chunkCount s.bufLen)
  frame : DataFrame s t
  scratch : ScratchKept i s t
  err : t.err = .ok
  busy : t.busy = false

theorem exec_completed {i : Instr} (hi : isData i = true) {s : State} (h : Ready i s) :
    ∃ t, exec i s = .next t ∧ Completed i s t := by
  obtain ⟨t, ht, hmem, hchain, hscratch⟩ := bufferPass_chained hi h.whole
  refine ⟨succeed (bufferPass i s), exec_data_ready hi h.valid h.whole h.buffer, ?_⟩
  exact {
    inside := fun x hx => by
      have hoff := ht.off
      have hcount : chunkCount s.bufLen = (s.bufLen + 15) / 16 := rfl
      rw [succeed_mem, hmem, ht.done x (by omega)]
    outside := memoryOutsideBufferKept_of_mem_eq (memoryOutsideBufferKept_bufferPass hi h.whole) (succeed_mem _)
    memory := memoryInv_bufferPass hi h.whole h.buffer
    chain := by rw [succeed_chain, hchain, ht.chained]
    frame := dataFrame_succeed_bufferPass hi s
    scratch := ht.scratch.trans ⟨hscratch.ks, hscratch.nextIv, hscratch.ch⟩
    err := succeed_err _
    busy := succeed_busy _ }

/-- Block `b` of the result, read back. -/
theorem Completed.readBlock_eq {i : Instr} {s t : State} (h : Completed i s t) {b : Nat} (hb : 16 * b + 16 ≤ s.bufLen) :
    readBlock t.mem (s.bufAddr + 16 * b) = outBlock i s b :=
  block_ext fun j hj => by
    rw [byteAt_readBlock _ _ hj, Nat.add_assoc, h.inside _ (by omega), outByte_of_block i s b hj]

end Sys2Proof.Proofs
end

section
/-! The results of the five data commands (`44_mode_driver.md` R122 to R128), read off `exec_completed`. -/

namespace Sys2Proof.Proofs
open Sys2Proof Sys2Proof.Machine

/-! ECB. -/

/-- A command that hands its chain block on unchanged brings `CHAIN` to every block. -/
theorem chainBefore_eq_chain {i : Instr} {s : State} (h : ∀ c d, nextChain i s c d = c) (k : Nat) :
    chainBefore i s k = s.chain := by
  induction k with
  | zero => rfl
  | succ k ih => rw [chainBefore, h, ih]

/-- Settles O34: byte `k` is the result's by definition. -/
theorem ecbEncryptResult : Obligations.EcbEncryptResult := by
  intro s hs
  obtain ⟨t, hexec, h⟩ := exec_completed (i := .ecbEncrypt) rfl (ready_of_blocksReady _ hs)
  exact ⟨t, hexec, h.inside, h.outside, h.frame, h.err, h.busy, h.chain.trans (chainBefore_eq_chain (fun _ _ => rfl) _),
    h.scratch.ks nofun, h.scratch.nextIv nofun, h.scratch.ch nofun⟩

/-- Settles O35, as O34. -/
theorem ecbDecryptResult : Obligations.EcbDecryptResult := by
  intro s hs
  obtain ⟨t, hexec, h⟩ := exec_completed (i := .ecbDecrypt) rfl (ready_of_blocksReady _ hs)
  exact ⟨t, hexec, h.inside, h.outside, h.frame, h.err, h.busy, h.chain.trans (chainBefore_eq_chain (fun _ _ => rfl) _),
    h.scratch.ks nofun, h.scratch.nextIv nofun, h.scratch.ch nofun⟩

/-! CBC. -/

/-- CBC_ENCRYPT hands on the block it stores. -/
theorem chainBefore_cbcEncrypt_succ (s : State) (k : Nat) :
    chainBefore .cbcEncrypt s (k + 1) = outBlock .cbcEncrypt s k := rfl

/-- CBC_DECRYPT hands on the block it finds. -/
theorem chainBefore_cbcDecrypt_succ (s : State) (k : Nat) :
    chainBefore .cbcDecrypt s (k + 1) = readBlock s.mem (s.bufAddr + 16 * k) := rfl

section
variable {i : Instr} {s : State} {m : List Host.Cell}
  (h : ∀ b, 16 * b + 16 ≤ s.bufLen → chainBefore i s (b + 1) = readBlock m (s.bufAddr + 16 * b))
include h

/-- Where each block handed on stands in a memory `m`, the chain block of block `b` is the block before it there. -/
theorem chainBefore_eq_previous {b : Nat} (hb : 16 * b ≤ s.bufLen) :
    chainBefore i s b = if b = 0 then s.chain else readBlock m (s.bufAddr + 16 * (b - 1)) := by
  cases b with
  | zero => rfl
  | succ b => exact h b hb

/-- The last block handed on is the last one of the buffer. -/
theorem chainBefore_eq_last (hlen : s.bufLen % 16 = 0) :
    chainBefore i s (chunkCount s.bufLen) =
      if s.bufLen = 0 then s.chain else readBlock m (s.bufAddr + (s.bufLen - 16)) := by
  have hblocks := chunkCount_blocks hlen
  rw [chainBefore_eq_previous h hblocks.le, show 16 * (chunkCount s.bufLen - 1) = s.bufLen - 16 by omega]
  exact if_congr (by omega) rfl rfl

end

/-- Settles O36: the chain block of block `b` is the block stored before it. -/
theorem cbcEncryptResult : Obligations.CbcEncryptResult := by
  intro s ⟨hvalid, hlen, hbuf⟩
  obtain ⟨t, hexec, h⟩ := exec_completed (i := .cbcEncrypt) rfl ⟨hvalid, fun _ => hlen, hbuf⟩
  have hstored (b : Nat) (hb : 16 * b + 16 ≤ s.bufLen) :
      chainBefore .cbcEncrypt s (b + 1) = readBlock t.mem (s.bufAddr + 16 * b) := (h.readBlock_eq hb).symm
  refine ⟨t, hexec, fun b hb => ?_, h.chain.trans (chainBefore_eq_last hstored hlen), h.outside, h.frame, h.err, h.busy,
    h.scratch.ks nofun, h.scratch.nextIv nofun⟩
  rw [← chainBefore_eq_previous hstored hb.le]
  exact h.readBlock_eq (by omega)

/-- Settles O37: the chain block of block `b` is the block before it in the memory the command found. -/
theorem cbcDecryptResult : Obligations.CbcDecryptResult := by
  intro s ⟨hvalid, hlen, hbuf⟩
  obtain ⟨t, hexec, h⟩ := exec_completed (i := .cbcDecrypt) rfl ⟨hvalid, fun _ => hlen, hbuf⟩
  have hfound (b : Nat) (_ : 16 * b + 16 ≤ s.bufLen) := chainBefore_cbcDecrypt_succ s b
  refine ⟨t, hexec, fun b hb => ?_, h.chain.trans (chainBefore_eq_last hfound hlen), h.outside, h.frame, h.err, h.busy,
    h.scratch.ks nofun, h.scratch.ch nofun⟩
  rw [← chainBefore_eq_previous hfound hb.le]
  exact h.readBlock_eq (by omega)

/-! CTR. -/

/-- The counter of block `k`. -/
theorem chainBefore_ctrXcrypt (s : State) (k : Nat) : chainBefore .ctrXcrypt s k = ctrAfter k s.chain := by
  induction k with
  | zero => rfl
  | succ k ih => rw [chainBefore, ih, ctrAfter, ctrAfter, Function.iterate_succ_apply']; rfl

/-- A byte is XORed with its byte of the keystream, also in a last block that reaches beyond the buffer. -/
theorem outByte_ctrXcrypt (s : State) (x : Nat) : outByte .ctrXcrypt s x = readByte s.mem (s.bufAddr + x) ^^^
    byteAt (encryptBlock s.rks (nrOf s.variant) (ctrAfter (x / 16) s.chain)) (x % 16) := by
  have hlt : x % 16 < 16 := Nat.mod_lt _ (by decide)
  rw [outByte, outBlock, storedBlock, byteAt_xorBlock _ _ hlt, byteAt_readBlock _ _ hlt, chainBefore_ctrXcrypt,
    Nat.add_assoc, Nat.div_add_mod]

/-- Settles O38. -/
theorem ctrXcryptResult : Obligations.CtrXcryptResult := by
  intro s hs
  obtain ⟨t, hexec, h⟩ := exec_completed (i := .ctrXcrypt) rfl (ready_of_chunksReady hs)
  exact ⟨t, hexec, fun k hk => (h.inside k hk).trans (outByte_ctrXcrypt s k),
    h.chain.trans (chainBefore_ctrXcrypt s _), h.outside, h.frame, h.err, h.busy, h.scratch.nextIv nofun,
    h.scratch.ch nofun⟩

/-! The empty buffer (R128). -/

theorem overBuffer_mem_of_empty (body : State → State) {s : State} (hlen : s.bufLen = 0) :
    (overBuffer body s).mem = s.mem := by
  rw [overBuffer, hlen]; rfl

/-- Over an empty buffer no turn is taken, so memory is not touched at all. -/
theorem bufferPass_mem_of_empty {i : Instr} (hi : isData i = true) {s : State} (hlen : s.bufLen = 0) :
    (bufferPass i s).mem = s.mem := by
  cases i <;> simp only [isData, reduceCtorEq] at hi <;> rw [bufferPass]
  case ecbEncrypt => rw [ecbEncryptBuffer, releaseScratch_mem, overBuffer_mem_of_empty _ hlen]
  case ecbDecrypt => rw [ecbDecryptBuffer, releaseScratch_mem, overBuffer_mem_of_empty _ hlen]
  case cbcEncrypt =>
    rw [cbcEncryptBuffer, releaseCh_mem, releaseScratch_mem, chainFromCh_mem, cbcEncryptLoop]
    exact overBuffer_mem_of_empty _ hlen
  case cbcDecrypt => rw [cbcDecryptBuffer, releaseNextIv_mem, releaseScratch_mem, overBuffer_mem_of_empty _ hlen]
  case ctrXcrypt => rw [ctrBuffer, releaseKs_mem, releaseScratch_mem, overBuffer_mem_of_empty _ hlen]

/-- Settles O39: an empty buffer passes the checks, and `CHAIN` ends as the chain block that reaches block 0. -/
theorem emptyBufferSucceeds : Obligations.EmptyBufferSucceeds := by
  intro i s hi hvalid hlen
  have hready : Ready i s := ⟨hvalid, fun _ => by rw [hlen], (bufferOk_iff s).2 (.inl hlen)⟩
  obtain ⟨t, hexec, h⟩ := exec_completed hi hready
  have ht : t = succeed (bufferPass i s) :=
    Host.Outcome.next.inj (hexec.symm.trans (exec_data_ready hi hready.valid hready.whole hready.buffer))
  have hchain := h.chain
  rw [hlen] at hchain
  exact ⟨t, hexec, by rw [ht, succeed_mem, bufferPass_mem_of_empty hi hlen], hchain, h.err, h.busy⟩

end Sys2Proof.Proofs
end

section
/-! Round trips (`44_mode_driver.md` R123, R125, R127): a data command after another one over the same buffer. -/

namespace Sys2Proof.Proofs
open Sys2Proof Sys2Proof.Machine

theorem bufferOk_of_frame {s t : State} (h : DataFrame s t) : bufferOk t = bufferOk s := by
  rw [bufferOk, bufferOk, h.bufAddr, h.bufLen, h.platform]

theorem Ready.of_frame {i : Instr} {s t : State} (hs : Ready i s) (h : DataFrame s t) : Ready i t :=
  ⟨h.valid.trans hs.valid, fun hi => (congrArg (· % 16) h.bufLen).trans (hs.whole hi),
    (bufferOk_of_frame h).trans hs.buffer⟩

theorem xorBlock_xorBlock (a b : Block) : xorBlock (xorBlock a b) b = a :=
  block_ext fun j hj => by
    rw [byteAt_xorBlock _ _ hj, byteAt_xorBlock _ _ hj, BitVec.xor_assoc, BitVec.xor_self, BitVec.xor_zero]

/-- Memories in form that agree at every address of the buffer and outside it are the same. -/
theorem mem_eq_of_buffer {s t u : State} (ht : MemoryInv t) (hu : MemoryInv u)
    (hinside : ∀ x, x < s.bufLen → readByte t.mem (s.bufAddr + x) = readByte u.mem (s.bufAddr + x))
    (houtside : ∀ a, a < s.bufAddr ∨ s.bufAddr + s.bufLen ≤ a → readByte t.mem a = readByte u.mem a) :
    t.mem = u.mem :=
  memWf_ext ht.1 hu.1 fun a => by
    by_cases ha : a < s.bufAddr ∨ s.bufAddr + s.bufLen ≤ a
    · exact houtside a ha
    · obtain ⟨x, rfl⟩ : ∃ x, a = s.bufAddr + x := ⟨a - s.bufAddr, by omega⟩
      exact hinside x (by omega)

section
variable {i j : Instr} {s t u w : State} (h : Completed i s t) (hframe : DataFrame t u) (hmem : u.mem = t.mem)
include h hframe hmem

/-- What the second command finds in a block of the buffer is the first one's result. -/
theorem readBlock_between {b : Nat} (hb : 16 * b + 16 ≤ s.bufLen) :
    readBlock u.mem (u.bufAddr + 16 * b) = outBlock i s b := by
  rw [hmem, hframe.bufAddr, h.frame.bufAddr, h.readBlock_eq hb]

variable (hw : Completed j u w)
include hw

/-- A command `j` whose result, computed at what a command `i` left, is the buffer's first content restores memory. -/
theorem mem_restored (hinv : MemoryInv s)
    (hback : ∀ x, x < s.bufLen → outByte j u x = readByte s.mem (s.bufAddr + x)) : w.mem = s.mem := by
  have hboth : DataFrame s u := dataFrame_trans h.frame hframe
  have hu : MemoryInv u := by
    rw [MemoryInv, hmem, hframe.platform]; exact h.memory hinv
  refine mem_eq_of_buffer (s := s) (hw.memory hu) hinv (fun x hx => ?_) fun a ha => ?_
  · rw [← hback x hx, ← hw.inside x (hboth.bufLen ▸ hx), hboth.bufAddr]
  · rw [hw.outside a (by rwa [hboth.bufAddr, hboth.bufLen]), hmem, h.outside a ha]

/-- The same, from block to block, in a buffer of whole blocks. -/
theorem mem_restored_of_blocks (hinv : MemoryInv s) (hlen : s.bufLen % 16 = 0)
    (hback : ∀ b, 16 * b < s.bufLen → outBlock j u b = readBlock s.mem (s.bufAddr + 16 * b)) : w.mem = s.mem := by
  refine mem_restored h hframe hmem hw hinv fun x hx => ?_
  rw [outByte, hback _ (by omega), byteAt_readBlock _ _ (Nat.mod_lt _ (by decide)), Nat.add_assoc, Nat.div_add_mod]

end

/-! ECB. -/

/-- ECB commands that undo each other on blocks restore memory. -/
theorem ecb_roundTrip {i j : Instr} (hi : isData i = true) (hj : isData j = true) {s : State} (hs : BlocksReady s)
    (hinv : MemoryInv s) (hinverse : ∀ (t : State) (c d e : Block), DataFrame s t →
      storedBlock j t e (storedBlock i s c d) = d) :
    ∃ t u, exec i s = .next t ∧ exec j t = .next u ∧ u.mem = s.mem ∧ u.err = .ok := by
  obtain ⟨t, hexec, ht⟩ := exec_completed hi (ready_of_blocksReady i hs)
  obtain ⟨u, hexec', hu⟩ := exec_completed hj ((ready_of_blocksReady j hs).of_frame ht.frame)
  obtain ⟨-, hlen, -⟩ := hs
  refine ⟨t, u, hexec, hexec', ?_, hu.err⟩
  refine mem_restored_of_blocks ht (dataFrame_refl t) rfl hu hinv hlen fun b hb => ?_
  rw [outBlock, readBlock_between ht (dataFrame_refl t) rfl (by omega), outBlock, hinverse _ _ _ _ ht.frame]

/-- Settles O42: the block procedures undo each other (R113), in both orders. -/
theorem ecbRoundTrip : Obligations.EcbRoundTrip := by
  intro s hs hinv
  refine ⟨ecb_roundTrip rfl rfl hs hinv fun t _ d e ht => ?_, ecb_roundTrip rfl rfl hs hinv fun t _ d e ht => ?_⟩
  · rw [storedBlock_of_frame ht]; exact decryptBlock_encryptBlock s.rks _ d
  · rw [storedBlock_of_frame ht]; exact encryptBlock_decryptBlock s.rks _ d

/-! CBC and CTR, with SET_IV between. -/

theorem exec_setIv_ready {s : State} (hvalid : s.valid = true) (hlen : s.ivLen.toNat = 16) :
    exec .setIv s = .next (succeed { s with chain := s.ivIn }) := by
  rcases execSetIv_cases s with ⟨hno, -⟩ | ⟨-, hno, -⟩ | ⟨-, -, h⟩
  · rw [hvalid] at hno; cases hno
  · exact absurd hlen hno
  · exact h

/-- A command that starts with the IV in `CHAIN`, then SET_IV, then a command that may run: both run over the same
buffer with the same `CHAIN`. -/
theorem exec_setIv_exec {i j : Instr} (hi : isData i = true) (hj : isData j = true) {s : State} (hsi : Ready i s)
    (hsj : Ready j s) (hivLen : s.ivLen.toNat = 16) (hchain : s.chain = s.ivIn) :
    ∃ t u w, exec i s = .next t ∧ exec .setIv t = .next u ∧ exec j u = .next w ∧ Completed i s t ∧ DataFrame t u ∧
      u.mem = t.mem ∧ u.chain = s.chain ∧ Completed j u w := by
  obtain ⟨t, hexec, ht⟩ := exec_completed hi hsi
  have hset := exec_setIv_ready (ht.frame.valid.trans hsi.valid) ((congrArg BitVec.toNat ht.frame.ivLen).trans hivLen)
  have hframe : DataFrame t (succeed { t with chain := t.ivIn }) := by constructor <;> rfl
  obtain ⟨w, hexec', hw⟩ := exec_completed hj (hsj.of_frame (dataFrame_trans ht.frame hframe))
  exact ⟨t, _, w, hexec, hset, hexec', ht, hframe, rfl, ht.frame.ivIn.trans hchain.symm, hw⟩

/-- Over the ciphertext CBC_DECRYPT meets the chain blocks that CBC_ENCRYPT made. -/
theorem chainBefore_cbcDecrypt_eq {s u : State} (hchain : u.chain = s.chain)
    (hcipher : ∀ b, 16 * b + 16 ≤ s.bufLen → readBlock u.mem (u.bufAddr + 16 * b) = outBlock .cbcEncrypt s b)
    {k : Nat} (hk : 16 * k ≤ s.bufLen) : chainBefore .cbcDecrypt u k = chainBefore .cbcEncrypt s k := by
  cases k with
  | zero => exact hchain
  | succ k => rw [chainBefore_cbcDecrypt_succ, hcipher k hk, chainBefore_cbcEncrypt_succ]

/-- Settles O43: decryption undoes encryption and then the XOR with the same chain block. -/
theorem cbcRoundTrip : Obligations.CbcRoundTrip := by
  intro s hs hinv hivLen hchain
  obtain ⟨t, u, w, hexec, hset, hexec', ht, hframe, hmem, hstart, hw⟩ := exec_setIv_exec (i := .cbcEncrypt)
    (j := .cbcDecrypt) rfl rfl (ready_of_blocksReady _ hs) (ready_of_blocksReady _ hs) hivLen hchain
  obtain ⟨-, hlen, -⟩ := hs
  have hboth : DataFrame s u := dataFrame_trans ht.frame hframe
  have hcipher (b : Nat) (hb : 16 * b + 16 ≤ s.bufLen) := readBlock_between ht hframe hmem hb
  refine ⟨t, u, w, hexec, hset, hexec', ?_, ?_, hw.err⟩
  · refine mem_restored_of_blocks ht hframe hmem hw hinv hlen fun b hb => ?_
    rw [outBlock, hcipher b (by omega), chainBefore_cbcDecrypt_eq hstart hcipher hb.le, storedBlock_of_frame hboth]
    simp only [outBlock, storedBlock, decryptBlock_encryptBlock, xorBlock_xorBlock]
  · rw [hw.chain, hboth.bufLen, chainBefore_cbcDecrypt_eq hstart hcipher (chunkCount_blocks hlen).le, ht.chain]

/-- Settles O44: both commands XOR with the same keystream. -/
theorem ctrRoundTrip : Obligations.CtrRoundTrip := by
  intro s hs hinv hivLen hchain
  obtain ⟨t, u, w, hexec, hset, hexec', ht, hframe, hmem, hstart, hw⟩ := exec_setIv_exec (i := .ctrXcrypt)
    (j := .ctrXcrypt) rfl rfl (ready_of_chunksReady hs) (ready_of_chunksReady hs) hivLen hchain
  have hboth : DataFrame s u := dataFrame_trans ht.frame hframe
  refine ⟨t, u, w, hexec, hset, hexec', ?_, ?_, hw.err⟩
  · refine mem_restored ht hframe hmem hw hinv fun x hx => ?_
    rw [outByte_ctrXcrypt, hmem, hboth.bufAddr, ht.inside x hx, outByte_ctrXcrypt, hboth.rks, hboth.variant, hstart,
      BitVec.xor_assoc, BitVec.xor_self, BitVec.xor_zero]
  · rw [hw.chain, ht.chain, hboth.bufLen, chainBefore_ctrXcrypt, chainBefore_ctrXcrypt, hstart]

end Sys2Proof.Proofs
end

section
/-! Streams (`44_mode_driver.md` R129): one command over a buffer does what two do over consecutive parts of it, when
the first part is of whole blocks. -/

namespace Sys2Proof.Proofs
open Sys2Proof Sys2Proof.Machine

/-- The first part of the buffer of `s`: its first `n` bytes. -/
abbrev firstPart (s : State) (n : Nat) : State := { s with bufLen := n }

/-- The next part, of `n2` bytes after the first `n1`, with memory and context as `u` has them. -/
abbrev nextPart (s u : State) (n1 n2 : Nat) : State := { u with bufAddr := s.bufAddr + n1, bufLen := n2 }

/-- The rules of a block look at no length. -/
theorem chainBefore_firstPart (i : Instr) (s : State) (n k : Nat) :
    chainBefore i (firstPart s n) k = chainBefore i s k := by
  induction k with
  | zero => rfl
  | succ k ih => rw [chainBefore, chainBefore, ih]; rfl

theorem outByte_firstPart (i : Instr) (s : State) (n x : Nat) : outByte i (firstPart s n) x = outByte i s x := by
  rw [outByte, outByte, outBlock, outBlock, chainBefore_firstPart]; rfl

/-- Both parts of a legal buffer are legal. -/
theorem bufferOk_parts {s u : State} {n1 n2 : Nat} (hu : u.platform = s.platform) (hlen : s.bufLen = n1 + n2)
    (h : bufferOk s = true) : bufferOk (firstPart s n1) = true ∧ bufferOk (nextPart s u n1 n2) = true := by
  simp only [bufferOk_iff, memOk_iff, hu, hlen] at h ⊢
  rcases h with hempty | ⟨hend, hplain⟩
  · exact ⟨.inl (by omega), .inl (by omega)⟩
  · refine ⟨.inr ⟨by omega, fun k hk => hplain k (by omega)⟩, .inr ⟨by omega, fun k hk => ?_⟩⟩
    rw [Nat.add_assoc]; exact hplain (n1 + k) (by omega)

section
variable {i : Instr} {s u : State} {n1 n2 : Nat} (hu : Completed i (firstPart s n1) u) (hn1 : n1 % 16 = 0)
include hu hn1

/-- The second command finds its blocks as they were, because the first one leaves them alone. -/
theorem readBlock_nextPart (k : Nat) :
    readBlock u.mem (s.bufAddr + n1 + 16 * k) = readBlock s.mem (s.bufAddr + 16 * (k + chunkCount n1)) := by
  have hblocks := chunkCount_blocks hn1
  have hkept := hu.outside
  refine block_ext fun j hj => ?_
  rw [byteAt_readBlock _ _ hj, byteAt_readBlock _ _ hj, hkept _ (.inr (by dsimp only; omega))]
  congr 1
  omega

/-- It takes the chain up where the first one left it. -/
theorem chainBefore_nextPart (k : Nat) :
    chainBefore i (nextPart s u n1 n2) k = chainBefore i s (k + chunkCount n1) := by
  induction k with
  | zero => rw [Nat.zero_add, ← chainBefore_firstPart i s n1]; exact hu.chain
  | succ k ih =>
    rw [Nat.add_right_comm, chainBefore, chainBefore, ih, readBlock_nextPart hu hn1]
    exact nextChain_of_frame hu.frame _ _

theorem outByte_nextPart (x : Nat) : outByte i (nextPart s u n1 n2) x = outByte i s (n1 + x) := by
  have hblocks := chunkCount_blocks hn1
  rw [outByte, outByte, outBlock, outBlock, chainBefore_nextPart hu hn1, readBlock_nextPart hu hn1,
    show (n1 + x) / 16 = x / 16 + chunkCount n1 by omega, show (n1 + x) % 16 = x % 16 by omega]
  exact congrArg (byteAt · _) (storedBlock_of_frame hu.frame _ _)

/-- Two commands over the parts store what one stores over the whole. -/
theorem mem_of_parts {t w : State} (hinv : MemoryInv s) (hlen : s.bufLen = n1 + n2) (ht : Completed i s t)
    (hw : Completed i (nextPart s u n1 n2) w) : w.mem = t.mem := by
  have hfirst := hu.inside
  have hkept := hu.outside
  have hnext := hw.inside
  have hkept' := hw.outside
  dsimp only [MemoryOutsideBufferKept] at hfirst hkept hnext hkept'
  refine mem_eq_of_buffer (s := s) (hw.memory (hu.memory hinv)) (ht.memory hinv) (fun x hx => ?_) fun a ha => ?_
  · rw [ht.inside x hx]
    by_cases hx1 : x < n1
    · rw [hkept' _ (by omega), hfirst x hx1, outByte_firstPart]
    · obtain ⟨y, rfl⟩ : ∃ y, x = n1 + y := ⟨x - n1, by omega⟩
      rw [← Nat.add_assoc, hnext y (by omega), outByte_nextPart hu hn1]
  · rw [hkept' a (by omega), hkept a (by omega), ht.outside a ha]

end

/-- One data command over `n1 + n2` bytes, `n1` of whole blocks, does what two do over the parts. -/
theorem stream_continues {i : Instr} (hi : isData i = true) {s : State} {n1 n2 : Nat} (hs : Ready i s)
    (hinv : MemoryInv s) (hlen : s.bufLen = n1 + n2) (hn1 : n1 % 16 = 0) :
    ∃ t u w, exec i s = .next t ∧ exec i (firstPart s n1) = .next u ∧ exec i (nextPart s u n1 n2) = .next w ∧
      w.mem = t.mem ∧ w.chain = t.chain := by
  obtain ⟨t, hexec, ht⟩ := exec_completed hi hs
  have hfirst : Ready i (firstPart s n1) := ⟨hs.valid, fun _ => hn1, (bufferOk_parts (u := s) rfl hlen hs.buffer).1⟩
  obtain ⟨u, hexec1, hu⟩ := exec_completed hi hfirst
  have hnext : Ready i (nextPart s u n1 n2) := {
    valid := hu.frame.valid.trans hs.valid
    whole := fun h => by
      have hwhole := hs.whole h
      dsimp only
      omega
    buffer := (bufferOk_parts (s := s) hu.frame.platform hlen hs.buffer).2 }
  obtain ⟨w, hexec2, hw⟩ := exec_completed hi hnext
  have hcount : chunkCount (n1 + n2) = chunkCount n2 + chunkCount n1 := by
    rw [chunkCount, chunkCount, chunkCount]; omega
  refine ⟨t, u, w, hexec, hexec1, hexec2, mem_of_parts hu hn1 hinv hlen ht hw, ?_⟩
  rw [hw.chain, chainBefore_nextPart hu hn1, ht.chain, hlen, hcount]

/-- Settles O45. -/
theorem cbcStreamContinues : Obligations.CbcStreamContinues := by
  intro i s n1 n2 hi hs hinv hlen hn1
  have hdata : isData i = true := by rcases hi with rfl | rfl <;> rfl
  exact stream_continues hdata (ready_of_blocksReady i hs) hinv hlen hn1

/-- Settles O46. -/
theorem ctrStreamContinues : Obligations.CtrStreamContinues := by
  intro s n1 n2 hs hinv hlen hn1
  exact stream_continues rfl (ready_of_chunksReady hs) hinv hlen hn1

end Sys2Proof.Proofs
end

section
/-! The context commands NEW and SET_IV (`45_context.md` R140, R141), and the host's writes of their operands (R142 (d)). -/

namespace Sys2Proof.Proofs
open Sys2Proof Sys2Proof.Machine

/-! NEW. -/

theorem exec_new (vc mc : BitVec 2) (s : State) : exec (.new vc mc) s = execNew vc mc s := rfl

/-- The reserved code stands for no Variant (R62). -/
theorem ne_reserved_of_variantOfCode {c : BitVec 2} {v : Variant} (h : variantOfCode c = some v) : c ≠ 3 := by
  rintro rfl; simp [variantOfCode] at h

/-- The reserved code stands for no Mode (R63). -/
theorem ne_reserved_of_modeOfCode {c : BitVec 2} {m : Mode} (h : modeOfCode c = some m) : c ≠ 3 := by
  rintro rfl; simp [modeOfCode] at h

/-- Settles O25: a NEW that is not well-formed lacks a Variant or a Mode, which is the first case of `execNew_cases`. -/
theorem newWithReservedCodeIsIllegal : Obligations.NewWithReservedCodeIsIllegal := by
  intro s vc mc hreserved
  rw [exec_new]
  rcases execNew_cases vc mc s with ⟨-, h⟩ | ⟨v, m, hv, hm, -⟩
  · exact h
  · have hlegal : wellFormed (.new vc mc) = true :=
      (wellFormed_new_iff vc mc).2 ⟨ne_reserved_of_variantOfCode hv, ne_reserved_of_modeOfCode hm⟩
    rw [hreserved] at hlegal; cases hlegal

/-- With legal codes and both lengths right NEW builds the context. -/
theorem exec_new_ready {s : State} {vc mc : BitVec 2} {v : Variant} {m : Mode} (hv : variantOfCode vc = some v)
    (hm : modeOfCode mc = some m) (hkey : s.keyLen.toNat = 4 * nkOf v) (hiv : s.ivLen.toNat = 16) :
    exec (.new vc mc) s = .next (buildContext v m s) := by
  simp only [exec_new, execNew, hv, hm, hkey, hiv, ne_eq, not_true_eq_false, if_false]

/-- Everything the context of a NEW takes over from the state before it. -/
theorem buildContext_frame (v : Variant) (m : Mode) (s : State) :
    buildContext v m s = { s with
      rks := (buildContext v m s).rks, chain := s.ivIn, variant := v, mode := m, valid := true, err := .ok, busy := false,
      ki := (buildContext v m s).ki, draws := (buildContext v m s).draws } := by
  simp only [buildContext, releaseKi, succeed]

/-- Settles O22: the next state is `buildContext`, and its storage holds the expansion of the key operand. -/
theorem newBuildsTheContext : Obligations.NewBuildsTheContext := by
  intro s vc mc v m hv hm hkey hiv
  refine ⟨buildContext v m s, exec_new_ready hv hm hkey hiv, fun j hj => ?_, buildContext_frame v m s⟩
  rw [buildContext_rks, getElem?_scheduleStorage _ _ hj, keyOperand, hkey]

/-! SET_IV. -/

theorem exec_setIv (s : State) : exec .setIv s = execSetIv s := rfl

theorem exec_setIv_noContext {s : State} (hvalid : s.valid = false) : exec .setIv s = raise .noContext s := by
  rw [exec_setIv, execSetIv, if_pos hvalid]

theorem exec_setIv_ivLen {s : State} (hvalid : s.valid = true) (hlen : s.ivLen.toNat ≠ 16) :
    exec .setIv s = raise .ivLen s := by
  rw [exec_setIv, execSetIv, if_neg (by simp [hvalid]), if_pos hlen]

/-- Settles O26: one lemma per case of SET_IV. -/
theorem setIvReplacesChain : Obligations.SetIvReplacesChain :=
  ⟨rfl, fun _ => ⟨exec_setIv_noContext, exec_setIv_ivLen, exec_setIv_ready⟩⟩

/-! Host writes of operand registers. -/

/-- A byte of a register, or of its record, after byte `j` was set. -/
theorem getElem_set_fin {α : Type} {n : Nat} (xs : Vector α n) (j k : Fin n) (x : α) :
    (xs.set j x)[k] = if k = j then x else xs[k] := by
  simp only [Fin.getElem_fin, Vector.getElem_set, Fin.ext_iff, eq_comm]

/-- Settles O54: `step_write` at each operand register, and `getElem_set_fin` for the bytes of `KEY_IN` and `IV_IN`. -/
theorem operandWriteStoresTheValue : Obligations.OperandWriteStoresTheValue := by
  intro s v rest hs
  have hwrite (r : HostReg) (hr : r ≠ .cmd) := step_write hs hr v rest
  refine ⟨⟨_, hwrite .keyLen nofun, rfl, rfl⟩, ⟨_, hwrite .ivLen nofun, rfl, rfl⟩,
    ⟨_, hwrite .bufAddr nofun, rfl, rfl⟩, ⟨_, hwrite .bufLen nofun, rfl, rfl⟩, fun j => ?keyIn, fun j => ?ivIn⟩
  case keyIn =>
    exact ⟨_, hwrite (.keyIn j) nofun, rfl, rfl, fun k => ⟨getElem_set_fin .., getElem_set_fin ..⟩⟩
  case ivIn =>
    exact ⟨_, hwrite (.ivIn j) nofun, rfl, rfl, fun k => ⟨getElem_set_fin .., getElem_set_fin ..⟩⟩

end Sys2Proof.Proofs
end

section
/-! The errors a command reports (`60_exceptions.md`): a command ends by its report, `reportedErr`, alone (R151 to R158),
and a command word that is none of the 15 legal ones is itself an error (R156). -/

namespace Sys2Proof.Proofs
open Sys2Proof Sys2Proof.Machine

/-! The report, one equation for each kind of command. -/

theorem reportedErr_new_reserved {vc mc : BitVec 2} (h : variantOfCode vc = none ∨ modeOfCode mc = none) (s : State) :
    reportedErr (.new vc mc) s = .illegalCmd := by
  rcases h with h | h
  · simp only [reportedErr, h]
  · cases hv : variantOfCode vc <;> simp only [reportedErr, hv, h]

theorem reportedErr_new {vc mc : BitVec 2} {v : Variant} {m : Mode} (hv : variantOfCode vc = some v)
    (hm : modeOfCode mc = some m) (s : State) : reportedErr (.new vc mc) s =
      if s.keyLen.toNat ≠ 4 * nkOf v then .keyLen else if s.ivLen.toNat ≠ 16 then .ivLen else .ok := by
  simp only [reportedErr, hv, hm]

theorem reportedErr_setIv (s : State) : reportedErr .setIv s =
    if s.valid = false then .noContext else if s.ivLen.toNat ≠ 16 then .ivLen else .ok := rfl

theorem reportedErr_data {i : Instr} (hi : isData i = true) (s : State) : reportedErr i s =
    if s.valid = false then .noContext else if needsBlocks i = true ∧ s.bufLen % 16 ≠ 0 then .bufLen else .ok := by
  cases i <;> simp only [isData, reduceCtorEq] at hi <;> simp [reportedErr, needsBlocks]

/-- None of the checks of NEW looks at `VALID` (R155). -/
theorem reportedErr_new_ne_noContext (vc mc : BitVec 2) (s : State) : reportedErr (.new vc mc) s ≠ .noContext := by
  cases hv : variantOfCode vc with
  | none => rw [reportedErr_new_reserved (.inl hv)]; nofun
  | some v =>
    cases hm : modeOfCode mc with
    | none => rw [reportedErr_new_reserved (.inr hm)]; nofun
    | some m => rw [reportedErr_new hv hm]; split_ifs <;> simp

/-- A length is an error only of a command that needs whole blocks, and only if it is no multiple of 16 (R154). -/
theorem reportedErr_data_ne_bufLen {i : Instr} (hi : isData i = true) {s : State}
    (hlen : needsBlocks i = true → s.bufLen % 16 = 0) : reportedErr i s ≠ .bufLen := by
  have hwhole : ¬(needsBlocks i = true ∧ s.bufLen % 16 ≠ 0) := fun ⟨hneeds, hpart⟩ => hpart (hlen hneeds)
  rw [reportedErr_data hi, if_neg hwhole]
  split_ifs <;> simp

theorem isData_of_needsBlocks {i : Instr} (hi : needsBlocks i = true) : isData i = true := by
  cases i <;> simp only [needsBlocks, reduceCtorEq] at hi <;> rfl

/-! How a command ends. -/

/-- How a command with the report `e` ends: it raises `e` when that is an error; else it is a data command refused for its
buffer (`20_memory.md` R47), or it succeeds. -/
inductive Ended (i : Instr) (s : State) : Err → Outcome → Prop where
  | reported {e : Err} (he : e ≠ .ok) : Ended i s e (raise e s)
  | stopped (hi : isData i = true) (hbuf : bufferOk s = false) : Ended i s .ok (.refused .bufferNotMemory)
  | succeeded (u : State) : Ended i s .ok (.next (succeed u))

theorem ended_new (vc mc : BitVec 2) (s : State) :
    Ended (.new vc mc) s (reportedErr (.new vc mc) s) (exec (.new vc mc) s) := by
  rw [exec_new]
  rcases execNew_cases vc mc s with ⟨hreserved, h⟩ | ⟨v, m, hv, hm, ⟨hkey, h⟩ | ⟨hkey, hiv, h⟩ | ⟨hkey, hiv, h⟩⟩ <;>
    rw [h]
  · rw [reportedErr_new_reserved hreserved]; exact .reported nofun
  · rw [reportedErr_new hv hm, if_pos hkey]; exact .reported nofun
  · rw [reportedErr_new hv hm, if_neg (not_not.2 hkey), if_pos hiv]; exact .reported nofun
  · rw [reportedErr_new hv hm, if_neg (not_not.2 hkey), if_neg (not_not.2 hiv)]; exact .succeeded _

theorem ended_setIv (s : State) : Ended .setIv s (reportedErr .setIv s) (exec .setIv s) := by
  rw [exec_setIv, reportedErr_setIv]
  rcases execSetIv_cases s with ⟨hv, h⟩ | ⟨hv, hiv, h⟩ | ⟨hv, hiv, h⟩ <;> rw [h]
  · rw [if_pos hv]; exact .reported nofun
  · rw [if_neg (by simp [hv]), if_pos hiv]; exact .reported nofun
  · rw [if_neg (by simp [hv]), if_neg (not_not.2 hiv)]; exact .succeeded _

theorem ended_data {i : Instr} (hi : isData i = true) (s : State) : Ended i s (reportedErr i s) (exec i s) := by
  rcases exec_data_cases hi s with ⟨hv, h⟩ | ⟨hv, hneeds, hpart, h⟩ | ⟨hv, hlen, hbuf, h⟩ | ⟨hv, hlen, -, h⟩ <;> rw [h]
  · rw [reportedErr_data hi, if_pos hv]; exact .reported nofun
  · rw [reportedErr_data hi, if_neg (by simp [hv]), if_pos ⟨hneeds, hpart⟩]; exact .reported nofun
  · rw [(reportedErr_data_eq_ok_iff hi s).2 ⟨hv, hlen⟩]; exact .stopped hi hbuf
  · rw [(reportedErr_data_eq_ok_iff hi s).2 ⟨hv, hlen⟩]; exact .succeeded _

/-- Every command ends as its report says (R157, R158). -/
theorem ended_exec {i : Instr} (hi : isCommand i = true) (s : State) : Ended i s (reportedErr i s) (exec i s) := by
  cases i with
  | new vc mc => exact ended_new vc mc s
  | setIv => exact ended_setIv s
  | ecbEncrypt | ecbDecrypt | cbcEncrypt | cbcDecrypt | ctrXcrypt => exact ended_data rfl s
  | subBytes | shiftRows | mixColumns | addRoundKey => cases hi
  | invSubBytes | invShiftRows | invMixColumns => cases hi

/-- A command whose report is an error raises it and does nothing else (R158). -/
theorem exec_eq_raise {i : Instr} (hi : isCommand i = true) {s : State} {e : Err} (he : reportedErr i s = e)
    (herr : e ≠ .ok) : exec i s = raise e s := by
  have h := ended_exec hi s
  generalize exec i s = o at h
  rw [he] at h
  cases h with
  | reported => rfl
  | stopped | succeeded => exact absurd rfl herr

/-- A command that goes on leaves its report in `STATUS.ERR`. -/
theorem err_eq_reportedErr {i : Instr} (hi : isCommand i = true) {s t : State} (h : exec i s = .next t) :
    t.err = reportedErr i s := by
  have hended := ended_exec hi s
  rw [h] at hended
  generalize reportedErr i s = e at hended
  cases hended <;> rfl

/-- Settles O29: each command ends as its report says. -/
theorem errorPriority : Obligations.ErrorPriority := fun _ _ _ hi h => err_eq_reportedErr hi h

/-- Settles O30: an error in `STATUS.ERR` is the command's report, and a reported error is all a command raises. -/
theorem failedCommandChangesOnlyStatus : Obligations.FailedCommandChangesOnlyStatus := by
  intro i s t hi h herr
  have hraise : exec i s = raise t.err s := exec_eq_raise hi (err_eq_reportedErr hi h).symm herr
  exact Host.Outcome.next.inj (h.symm.trans hraise)

/-- Settles O31: a command ends in one of three ways, a micro-operation completes. -/
theorem noFaultInsideAnInstruction : Obligations.NoFaultInsideAnInstruction := by
  intro i s
  cases hi : isCommand i with
  | false =>
    obtain ⟨b, draws, h⟩ := exec_microOp hi s
    exact .inl ⟨_, h⟩
  | true =>
    have hended := ended_exec hi s
    generalize exec i s = o, reportedErr i s = e at hended ⊢
    cases hended with
    | reported | succeeded => exact .inl ⟨_, rfl⟩
    | stopped hdata hbuf => exact .inr ⟨hdata, rfl, hbuf, rfl⟩

/-- Settles O27: the report of SET_IV and of the data commands without a context, and that of NEW. -/
theorem noContextIsReported : Obligations.NoContextIsReported := by
  refine ⟨fun i s hi hvalid => ?_, fun vc mc s t h => ?_⟩
  · rcases hi with hi | rfl
    · exact exec_eq_raise (isCommand_of_isData hi) (by rw [reportedErr_data hi, if_pos hvalid]) nofun
    · exact exec_setIv_noContext hvalid
  · rw [err_eq_reportedErr rfl h]
    exact reportedErr_new_ne_noContext vc mc s

/-- Settles O28: the report of the data commands, with a length that is no multiple of 16 and otherwise. -/
theorem wrongBufferLengthIsReported : Obligations.WrongBufferLengthIsReported := by
  refine ⟨fun i s hi hvalid hpart => ?_, fun i s t hi hempty h => ?_, fun s t h => ?_⟩
  · have hdata := isData_of_needsBlocks hi
    refine exec_eq_raise (isCommand_of_isData hdata) ?_ nofun
    rw [reportedErr_data hdata, if_neg (by simp [hvalid]), if_pos ⟨hi, hpart⟩]
  · have hdata := isData_of_needsBlocks hi
    rw [err_eq_reportedErr (isCommand_of_isData hdata) h]
    exact reportedErr_data_ne_bufLen hdata fun _ => by rw [hempty]
  · rw [err_eq_reportedErr rfl h]
    exact reportedErr_data_ne_bufLen rfl nofun

/-! The two lengths (R152, R153). -/

/-- The codes of a well-formed NEW stand for a Variant and a Mode (R62, R63). -/
theorem exists_codes_of_wellFormed {vc mc : BitVec 2} (h : wellFormed (.new vc mc) = true) :
    (∃ v, variantOfCode vc = some v) ∧ ∃ m, modeOfCode mc = some m := by
  simp only [← Option.isSome_iff_exists]
  revert vc mc; decide

/-- The key length in bytes of the Variant a code stands for (R6, R62). -/
theorem keyBytes_of_variantOfCode {c : BitVec 2} {v : Variant} (h : variantOfCode c = some v) :
    4 * nkOf v = if c = 0 then 16 else if c = 1 then 24 else 32 := by
  unfold variantOfCode at h
  split_ifs at h ⊢ <;> cases h <;> rfl

/-- Settles O23: the first check of a NEW with legal codes. -/
theorem newReportsKeyLength : Obligations.NewReportsKeyLength := by
  intro s vc mc n hwf hn hkey
  obtain ⟨⟨v, hv⟩, m, hm⟩ := exists_codes_of_wellFormed hwf
  rw [hn, ← keyBytes_of_variantOfCode hv] at hkey
  exact exec_eq_raise rfl (by rw [reportedErr_new hv hm, if_pos hkey]) nofun

/-- Settles O24: the second check of a NEW with legal codes, and of SET_IV. -/
theorem wrongIvLengthIsReported : Obligations.WrongIvLengthIsReported := by
  refine ⟨fun s vc mc v hwf hv hkey hiv => ?_, fun _ => exec_setIv_ivLen⟩
  obtain ⟨-, m, hm⟩ := exists_codes_of_wellFormed hwf
  exact exec_eq_raise rfl (by rw [reportedErr_new hv hm, if_neg (not_not.2 hkey), if_pos hiv]) nofun

/-! Illegal command words (R65, R156). -/

/-- The 15 legal values of `CMD` (R65). -/
def legalWords : List (BitVec 8) :=
  [0x01, 0x09, 0x11, 0x21, 0x29, 0x31, 0x41, 0x49, 0x51, 0x02, 0x03, 0x04, 0x05, 0x06, 0x07]

/-- The word of a NEW with two legal fields is one of them. -/
theorem new_word_mem_legalWords {vc mc : BitVec 2} (h : wellFormed (.new vc mc) = true) :
    0#1 ++ mc ++ vc ++ 1#3 ∈ legalWords := by
  revert vc mc; decide

/-- A word that decodes is the code of the instruction, so it is a legal one. -/
theorem mem_legalWords_of_decodeCmd {w : BitVec 8} {i : Instr} (h : decodeCmd w = .instr i) : w ∈ legalWords := by
  obtain ⟨hwf, henc⟩ := encode_of_decodeCmd h
  cases i with
  | new vc mc => cases henc; exact new_word_mem_legalWords hwf
  | setIv | ecbEncrypt | ecbDecrypt | cbcEncrypt | cbcDecrypt | ctrXcrypt => cases henc; decide
  | subBytes | shiftRows | mixColumns | addRoundKey => cases henc
  | invSubBytes | invShiftRows | invMixColumns => cases henc

/-- Settles O5: a word that is not legal does not decode, and `step_illegal` says what a rejected word does. -/
theorem illegalCommandWordIsReported : Obligations.IllegalCommandWordIsReported := by
  intro s w rest hs hw
  obtain ⟨hbusy, huop⟩ := hs
  cases hd : decodeCmd w with
  | instr i => exact absurd (mem_legalWords_of_decodeCmd hd) hw
  | reject why =>
    have hstep := step_illegal (s := { s with host := .write .cmd w.toNat :: rest }) ⟨hbusy, huop⟩ rfl
      (why := why) (by simpa [decode] using hd)
    rw [hstep, raise, hbusy]

end Sys2Proof.Proofs
end

section
/-! The error code is not sticky (`60_exceptions.md` R159): no command reads `STATUS.ERR`, and every command writes it. -/

namespace Sys2Proof.Proofs
open Sys2Proof Sys2Proof.Machine

/-- The state with another code in `STATUS.ERR`. -/
def withErr (e : Err) (s : State) : State := { s with err := e }

/-- A loop none of whose turns looks at the code carries it along. -/
theorem overBuffer_withErr {body : State → State} {e : Err} (hbody : Function.Commute body (withErr e)) (s : State) :
    overBuffer body (withErr e s) = withErr e (overBuffer body s) := by
  have hturns := (hbody.iterate_left (chunkCount s.bufLen)).eq { s with off := 0 }
  rwa [← blockLoop_eq_iterate] at hturns

theorem ecbEncryptBody_withErr (e : Err) : Function.Commute ecbEncryptBody (withErr e) := fun s => by
  simp only [ecbEncryptBody_eq, withErr]

theorem ecbDecryptBody_withErr (e : Err) : Function.Commute ecbDecryptBody (withErr e) := fun s => by
  simp only [ecbDecryptBody_eq, withErr]

theorem cbcEncryptBody_withErr (e : Err) : Function.Commute cbcEncryptBody (withErr e) := fun s => by
  simp only [cbcEncryptBody_eq, cbcCipherBlock, withErr]

theorem cbcDecryptBody_withErr (e : Err) : Function.Commute cbcDecryptBody (withErr e) := fun s => by
  simp only [cbcDecryptBody_eq, cbcPlainBlock, withErr]

theorem ctrBody_withErr (e : Err) : Function.Commute ctrBody (withErr e) := fun s => by
  simp only [ctrBody_eq, ctrKeystream, ctrChunkLen, withErr]

/-- The pass of a data command carries the code along: each turn of its loop does, and what follows the loop writes
scratch and `CHAIN` only. -/
theorem bufferPass_withErr {i : Instr} (hi : isData i = true) (e : Err) (s : State) :
    bufferPass i (withErr e s) = withErr e (bufferPass i s) := by
  cases i <;> simp only [isData, reduceCtorEq] at hi <;> simp only [bufferPass]
  case ecbEncrypt => rw [ecbEncryptBuffer, overBuffer_withErr (ecbEncryptBody_withErr e)]; rfl
  case ecbDecrypt => rw [ecbDecryptBuffer, overBuffer_withErr (ecbDecryptBody_withErr e)]; rfl
  case cbcEncrypt =>
    have hloop : cbcEncryptLoop (withErr e s) = withErr e (cbcEncryptLoop s) :=
      overBuffer_withErr (cbcEncryptBody_withErr e) { s with ch := s.chain }
    rw [cbcEncryptBuffer, hloop]; rfl
  case cbcDecrypt => rw [cbcDecryptBuffer, overBuffer_withErr (cbcDecryptBody_withErr e)]; rfl
  case ctrXcrypt => rw [ctrBuffer, overBuffer_withErr (ctrBody_withErr e)]; rfl

@[simp] theorem withErr_valid (e : Err) (s : State) : (withErr e s).valid = s.valid := by simp only [withErr]

@[simp] theorem withErr_bufLen (e : Err) (s : State) : (withErr e s).bufLen = s.bufLen := by simp only [withErr]

@[simp] theorem bufferOk_withErr (e : Err) (s : State) : bufferOk (withErr e s) = bufferOk s := by
  simp only [bufferOk, withErr]; rfl

/-- A data command looks at the code neither in its checks nor in its pass, and its report replaces it. -/
theorem exec_data_withErr {i : Instr} (hi : isData i = true) (e : Err) (s : State) :
    exec i (withErr e s) = exec i s := by
  simp only [exec_data hi, dataCommand, withErr_valid, withErr_bufLen, bufferOk_withErr]
  split_ifs
  · rfl
  · rfl
  · rfl
  · rw [bufferPass_withErr hi]; rfl

/-- NEW computes the same outcome: its checks and its context read other registers, and each branch writes the code. -/
theorem exec_new_withErr (vc mc : BitVec 2) (e : Err) (s : State) :
    exec (.new vc mc) (withErr e s) = exec (.new vc mc) s := rfl

/-- So does SET_IV. -/
theorem exec_setIv_withErr (e : Err) (s : State) : exec .setIv (withErr e s) = exec .setIv s := rfl

/-- Settles O33: one lemma for each kind of command. -/
theorem errorIsNotSticky : Obligations.ErrorIsNotSticky := by
  intro i s e hi
  cases i with
  | new vc mc => exact exec_new_withErr vc mc e s
  | setIv => exact exec_setIv_withErr e s
  | ecbEncrypt | ecbDecrypt | cbcEncrypt | cbcDecrypt | ctrXcrypt => exact exec_data_withErr rfl e s
  | subBytes | shiftRows | mixColumns | addRoundKey => cases hi
  | invSubBytes | invShiftRows | invMixColumns => cases hi

end Sys2Proof.Proofs
end

section
/-! The platform's reset between commands (`70_reset_and_hazards.md` R180). -/

namespace Sys2Proof.Proofs
open Sys2Proof Sys2Proof.Machine

/-- No command is in progress, so no buffer is left unspecified. -/
theorem memAfterReset_of_not_busy {s : State} (hbusy : s.busy = false) : memAfterReset s = s.mem := by
  rw [memAfterReset, hbusy, Bool.false_and, if_neg Bool.false_ne_true]

/-- The platform's reset between commands takes place. -/
theorem step_reset {s : State} (hs : BetweenCommands s) (rest : List HostAction) :
    step { s with host := .reset :: rest } = .next (platformReset { s with host := rest }) := by
  rw [step_access_betweenCommands hs (by simp), hostAccess, hs.1, Bool.false_and, if_neg Bool.false_ne_true]

/-- Settles O56: the step is `platformReset`, which fixes every field but memory by definition; memory is
`memAfterReset_of_not_busy`. -/
theorem platformResetDropsTheContext : Obligations.PlatformResetDropsTheContext := by
  intro s rest hs
  have hmem : (platformReset { s with host := rest }).mem = s.mem :=
    memAfterReset_of_not_busy (s := { s with host := rest }) hs.1
  exact ⟨_, step_reset hs rest, rfl, rfl, rfl, rfl, hmem, rfl, rfl, rfl⟩

end Sys2Proof.Proofs
end

section
/-! The stored Mode (log 21), the steps of the sequencer's port (`30_encoding.md` R67), and the state at reset
(`10_state.md` R24). -/

namespace Sys2Proof.Proofs
open Sys2Proof Sys2Proof.Machine

/-- Settles O40: the Mode is among the unread registers of a data command, and the frame keeps the others of them. -/
theorem modeDoesNotGate : Obligations.ModeDoesNotGate := by
  intro i s m hi
  refine exec_data_of_unread hi (t := { s with mode := m }) rfl fun u hu => ?_
  rw [withUnreadOf, ← hu.keyIn, ← hu.keyLen, ← hu.ivIn, ← hu.ivLen]

/-- A 4-bit row of the table is placed at the sequencer's port (log 7). -/
theorem withFetchWord_uop (s : State) (c : BitVec 4) : s.withFetchWord 4 c.toNat = { s with uop := some c } := by
  rw [State.withFetchWord, if_pos rfl, BitVec.ofNat_toNat, BitVec.setWidth_eq]

/-- Settles O7: `step_uop` at the state with the code at the port, however it was placed there. -/
theorem stepRunsTheDecodedMicroOp : Obligations.StepRunsTheDecodedMicroOp := by
  intro s c i hd
  have hstep : step { s with uop := some c } = exec i { s with uop := none } := step_uop rfl hd
  exact ⟨hstep, withFetchWord_uop s c ▸ hstep⟩

/-- A code that is none of the seven used ones is rejected, since an accepted one is the code of its instruction. -/
theorem exists_decode_uop_eq_reject {c : BitVec 4}
    (hc : c ∉ ([0x0, 0x1, 0x2, 0x3, 0x8, 0x9, 0xa] : List (BitVec 4))) : ∃ why, decode (.uop c) = .reject why := by
  cases hd : decode (.uop c) with
  | reject why => exact ⟨why, rfl⟩
  | instr i =>
    obtain ⟨-, henc⟩ := encode_of_decodeUop hd
    cases i with
    | new | setIv | ecbEncrypt | ecbDecrypt | cbcEncrypt | cbcDecrypt | ctrXcrypt => cases henc
    | subBytes | shiftRows | mixColumns | addRoundKey => cases henc; exact absurd (by decide) hc
    | invSubBytes | invShiftRows | invMixColumns => cases henc; exact absurd (by decide) hc

/-- Settles O8: an unused code does not decode, and `step_uop_unused` says what a rejected code does. -/
theorem unusedMicroOpStops : Obligations.UnusedMicroOpStops := by
  intro s c hc
  obtain ⟨why, hd⟩ := exists_decode_uop_eq_reject hc
  exact step_uop_unused rfl hd

/-- Settles O57: memory lists nothing, every numbered register is 0 in an address space of 32 bits, and the engine is
idle without a context. -/
theorem resetMeetsTheInvariants : Obligations.ResetMeetsTheInvariants := by
  have hmemory : MemoryInv State.reset := ⟨⟨.nil, nofun⟩, nofun⟩
  have hranges : RangesInv State.reset := by decide
  exact ⟨⟨hmemory, hranges⟩, ⟨rfl, rfl⟩, rfl⟩

end Sys2Proof.Proofs
end
